-- ==== Sys2Proof/Word.lean ====
section
/-! DEFINITION. The word types of the block and their plainest helpers. -/

namespace Sys2Proof

/-- A bus word, a command word or a register: 32 bits (00_scope.md R7 `BUS_WIDTH`, 10_state.md R22). -/
abbrev Word := BitVec 32

/-- A record byte or an ASCII character (10_state.md R33, 00_scope.md R11). -/
abbrev Byte := BitVec 8

/-- The bit sequence in its bit-vector view `S`, where `S[151 - p] = seq[p]` (00_scope.md R9). -/
abbrev Seq := BitVec 152

end Sys2Proof
end

