-- ==== Sys2Proof/Syntax.lean ====
section
/-! DEFINITION. The commands: one constructor per row of the opcode map (30_encoding.md R73), with the
operands of its format (R71) as the unsigned numbers they are (R72). -/

namespace Sys2Proof

/-- The ten commands of 30_encoding.md R73. Operands are numbers (DESIGN CHOICE, assumption 10). -/
inductive Instr where
  /-- NOP, opcode 0x00 (44_control.md R160). -/
  | nop
  /-- BUILD, opcode 0x01 (40_bit_reorder.md R93). -/
  | build
  /-- SLICE START, LEN, opcode 0x02 (41_slicers.md R107). -/
  | slice (start len : Nat)
  /-- DECODE, opcode 0x03 (43_decode_resolve.md R140). -/
  | decode
  /-- XLOC IDX, opcode 0x04 (42_domain_luts.md R129). -/
  | xloc (idx : Nat)
  /-- XLTOT RAW, opcode 0x05 (42_domain_luts.md R130). -/
  | xltot (raw : Nat)
  /-- XDATE OFF, opcode 0x06 (42_domain_luts.md R131). -/
  | xdate (off : Nat)
  /-- TTSEL K, opcode 0x07 (43_decode_resolve.md R148). -/
  | ttsel (k : Nat)
  /-- CLRERR, opcode 0x08 (44_control.md R161). -/
  | clrerr
  /-- SRESET, opcode 0x09 (44_control.md R162). -/
  | sreset
deriving DecidableEq, Repr

end Sys2Proof
end

