-- ==== Sys2Proof/WellFormed.lean ====
section
/-! DEFINITION. Which commands can be written as a word: every operand fits its field
(30_encoding.md R76; "An assembler refuses an operand that does not fit its field", R77). -/

namespace Sys2Proof

/-- Every operand of the command fits its field (30_encoding.md R76). -/
def Instr.wellFormed : Instr → Bool
  | .nop => true
  | .build => true
  | .slice start len => decide (start < 256) && decide (len < 64)
  | .decode => true
  | .xloc idx => decide (idx < 64)
  | .xltot raw => decide (raw < 1024)
  | .xdate off => decide (off < 512)
  | .ttsel k => decide (k < 65536)
  | .clrerr => true
  | .sreset => true

/-- The check as a proposition. -/
abbrev Instr.WellFormed (i : Instr) : Prop := i.wellFormed = true

end Sys2Proof
end

