-- ==== Sys2Proof/Decode.lean ====
section
/-! DEFINITION. The decoder of 30_encoding.md R74, total on 32-bit words, the encoder of R76, and the
host's reading of an opcode-table word. -/

namespace Sys2Proof

/-- Why a word is no command; both reasons raise ILLEGAL_CMD (30_encoding.md R74, R75). -/
inductive Reject where
  /-- The opcode is 0x0A..0xFF. -/
  | undefinedOpcode (op : Byte)
  /-- A reserved bit of the opcode's format is not 0. -/
  | reservedBits (op : Byte)
deriving DecidableEq, Repr

/-- The opcode field OP = w[7:0] (30_encoding.md R70). -/
def opcodeOf (w : Word) : Byte := w.extractLsb' 0 8

/-- `RESERVED_MASK` of format N (30_encoding.md R74). -/
def reservedN : Word := 0xFFFFFF00

/-- `RESERVED_MASK` of format S (30_encoding.md R74). -/
def reservedS : Word := 0xFFC00000

/-- `RESERVED_MASK` of format I6 (30_encoding.md R74). -/
def reservedI6 : Word := 0xFFFFC000

/-- `RESERVED_MASK` of format I10 (30_encoding.md R74). -/
def reservedI10 : Word := 0xFFFC0000

/-- `RESERVED_MASK` of format I9 (30_encoding.md R74). -/
def reservedI9 : Word := 0xFFFE0000

/-- `RESERVED_MASK` of format K (30_encoding.md R74). -/
def reservedK : Word := 0xFF000000

/-- An operand field: `width` bits from bit `lo`, as an unsigned number (30_encoding.md R71, R72). -/
def operandOf (w : Word) (lo width : Nat) : Nat := (w.extractLsb' lo width).toNat

/-- The command `i`, unless one of its format's reserved bits is set (30_encoding.md R74). -/
def unlessReserved (mask w : Word) (i : Instr) : Except Reject Instr :=
  if w &&& mask = 0 then .ok i else .error (.reservedBits (opcodeOf w))

/-- `decode_cmd` of 30_encoding.md R74. -/
def decode (w : Word) : Except Reject Instr :=
  match (opcodeOf w).toNat with
  | 0x00 => unlessReserved reservedN w .nop
  | 0x01 => unlessReserved reservedN w .build
  | 0x02 => unlessReserved reservedS w (.slice (operandOf w 8 8) (operandOf w 16 6))
  | 0x03 => unlessReserved reservedN w .decode
  | 0x04 => unlessReserved reservedI6 w (.xloc (operandOf w 8 6))
  | 0x05 => unlessReserved reservedI10 w (.xltot (operandOf w 8 10))
  | 0x06 => unlessReserved reservedI9 w (.xdate (operandOf w 8 9))
  | 0x07 => unlessReserved reservedK w (.ttsel (operandOf w 8 16))
  | 0x08 => unlessReserved reservedN w .clrerr
  | 0x09 => unlessReserved reservedN w .sreset
  | _ => .error (.undefinedOpcode (opcodeOf w))

/-- The encoding formulas of 30_encoding.md R76; a word of an ill-formed command has no meaning. -/
def encode : Instr → Word
  | .nop => 0x00
  | .build => 0x01
  | .slice start len => 0x02 ||| (BitVec.ofNat 32 start <<< 8) ||| (BitVec.ofNat 32 len <<< 16)
  | .decode => 0x03
  | .xloc idx => 0x04 ||| (BitVec.ofNat 32 idx <<< 8)
  | .xltot raw => 0x05 ||| (BitVec.ofNat 32 raw <<< 8)
  | .xdate off => 0x06 ||| (BitVec.ofNat 32 off <<< 8)
  | .ttsel k => 0x07 ||| (BitVec.ofNat 32 k <<< 8)
  | .clrerr => 0x08
  | .sreset => 0x09

/-- The command word whose low `nbits` bits are those of `w`, every bit above them 0. -/
def tableWord (nbits w : Nat) : Word := BitVec.ofNat 32 (w % 2 ^ nbits)

/-- What the decoder reads from a word numbered as the opcode table numbers it: bit 0 is bit 0 of the
one command word (30_encoding.md R70). -/
def decodeTableWord (nbits w : Nat) : Option Instr :=
  match decode (tableWord nbits w) with
  | .ok i => some i
  | .error _ => none

end Sys2Proof
end

