-- ==== Sys2Proof/Machine/Calendar.lean ====
section
/-! DEFINITION. The proleptic Gregorian calendar and the date function of 42_domain_luts.md (R125 to R128). -/

namespace Sys2Proof

/-- A calendar date (42_domain_luts.md R125, R126). -/
structure Date where
  year : Nat
  month : Nat
  day : Nat
deriving DecidableEq, Repr, Inhabited

namespace Calendar

/-- `leap(y)` of R125. -/
def leap (y : Nat) : Bool :=
  (y % 4 == 0 && y % 100 != 0) || y % 400 == 0

/-- `mdays(y, m)` of R125. Months outside 1..12 never arise (R127); the last row covers month 12 and
those (DESIGN CHOICE, assumption 13). -/
def mdays (y m : Nat) : Nat :=
  match m with
  | 2 => if leap y then 29 else 28
  | 4 => 30
  | 6 => 30
  | 9 => 30
  | 11 => 30
  | _ => 31

/-- `nextDay(y, m, d)` of R125. -/
def nextDay (t : Date) : Date :=
  if t.day < mdays t.year t.month then ⟨t.year, t.month, t.day + 1⟩
  else if t.month < 12 then ⟨t.year, t.month + 1, 1⟩
  else ⟨t.year + 1, 1, 1⟩

/-- `expiryDate(off)` of R126: the base date, advanced `off` times by one day. -/
def addDays (base : Date) : Nat → Date
  | 0 => base
  | off + 1 => nextDay (addDays base off)

/-- `packDate(y, m, d)` of R126: the year in [31:16], the month in [11:8], the day in [4:0]. -/
def packDate (t : Date) : Word :=
  (BitVec.ofNat 32 t.year <<< 16) ||| (BitVec.ofNat 32 t.month <<< 8) ||| BitVec.ofNat 32 t.day

/-- A valid Gregorian date: 1 ≤ m ≤ 12 and 1 ≤ d ≤ mdays(y, m) (R127). -/
def validDate (t : Date) : Bool :=
  decide (1 ≤ t.month) && decide (t.month ≤ 12) && decide (1 ≤ t.day)
    && decide (t.day ≤ mdays t.year t.month)

/-- The dates `EPOCH_DATE` may be: valid, with 1 ≤ y ≤ 9998 (R127). -/
def validEpoch (t : Date) : Bool :=
  validDate t && decide (1 ≤ t.year) && decide (t.year ≤ 9998)

end Calendar

end Sys2Proof
end

