-- ==== Sys2Proof/Config.lean ====
section
/-! DEFINITION. What an implementation fixes: the constants of 00_scope.md R6 and R7, and the OPEN
parameters `EPOCH_DATE`, `REF_INDEX` and `BASE`, with the one body-less constant that stands for the
platform's choice of them. -/

namespace Sys2Proof

/-- A key of `ltotToTicketTypes`: a pair of 8-bit characters, `String2` (43_decode_resolve.md R144). -/
structure LtotKey where
  first : Byte
  second : Byte
deriving DecidableEq, Repr, Inhabited

/-- A ticket-type code: a triple of 8-bit characters, `Code3` (43_decode_resolve.md R144). -/
structure TicketCode where
  char0 : Byte
  char1 : Byte
  char2 : Byte
deriving DecidableEq, Repr, Inhabited

/-- `EPOCH_DATE`, with the check of 42_domain_luts.md R127 that a block cannot be built without
(DESIGN CHOICE, assumption 2). -/
structure Epoch where
  date : Date := ⟨2000, 1, 1⟩
  valid : Calendar.validEpoch date = true := by decide
deriving DecidableEq, Repr, Inhabited

/-- `REF_INDEX` (43_decode_resolve.md R144): its two mappings as finite lists of pairs, the first pair
with a key being the one that counts (DESIGN CHOICE, assumption 11), with the bound of R150 (DESIGN CHOICE, assumption 2). -/
structure RefIndex where
  ltotToTicketTypes : List (LtotKey × List TicketCode) := []
  ticketTypeToName : List (TicketCode × String) := []
  bounded : (ltotToTicketTypes.all fun e => decide (e.2.length ≤ 65535)) = true := by decide
deriving DecidableEq, Repr, Inhabited

/-- The OPEN parameters of 00_scope.md R7 and 20_memory.md R50 (DESIGN CHOICE, assumption 1). -/
structure Params where
  /-- `BASE`, the host address of the register window (20_memory.md R50). -/
  base : Nat
  /-- `EPOCH_DATE`, the base date of the date converter (42_domain_luts.md R126). -/
  epoch : Epoch
  /-- `REF_INDEX`, the reference index (43_decode_resolve.md R144). -/
  refIndex : RefIndex
deriving DecidableEq, Repr, Inhabited

namespace Config

/-- The platform's choice of the OPEN parameters. It has no body: no statement can rest on a value of
it (DESIGN CHOICE, assumption 1). -/
opaque platform : Params

/-- `REC_BYTES` (00_scope.md R6). -/
def recBytes : Nat := 19

/-- `SEQ_BITS` (00_scope.md R6). -/
def seqBits : Nat := 152

/-- `HEADER_ADJ` (00_scope.md R6). -/
def headerAdj : Nat := 24

/-- `MAX_SLICE` (00_scope.md R7). -/
def maxSlice : Nat := 32

/-- `BUS_WIDTH` in bytes (00_scope.md R7, 20_memory.md R51). -/
def busBytes : Nat := 4

/-- `ID_VALUE` (10_state.md R23). -/
def idValue : Word := 0x3144534D

end Config

end Sys2Proof
end

