-- ==== Sys2Proof/Machine/State.lean ====
section
/-! DEFINITION. The state of the block (10_state.md, 70_reset_and_hazards.md R190), with the model's own
record of the host's accesses, and the reasons a step can stop. -/

namespace Sys2Proof

/-- One thing per row of `FIELD_TABLE`, in its order (41_slicers.md R101). -/
structure PerField (α : Type) where
  /-- Row 0, ORIG_PFX. -/
  origPfx : α
  /-- Row 1, ORIG_SFX. -/
  origSfx : α
  /-- Row 2, DEST_PFX. -/
  destPfx : α
  /-- Row 3, DEST_SFX. -/
  destSfx : α
  /-- Row 4, ROUTE. -/
  route : α
  /-- Row 5, LTOT. -/
  ltot : α
  /-- Row 6, STATUS. -/
  status : α
  /-- Row 7, CLASS. -/
  ticketClass : α
  /-- Row 8, DATEMODE. -/
  dateMode : α
  /-- Row 9, OWNER. -/
  owner : α
  /-- Row 10, EXPIRY. -/
  expiry : α
deriving DecidableEq, Repr

end Sys2Proof

namespace Sys2Proof.Machine

/-- The STATUS fields (10_state.md R24); bits [31:18] are reserved and have no storage. -/
structure Status where
  /-- STATUS[0], a BUILD or DECODE has run (R25). -/
  seqValid : Bool
  /-- STATUS[1], the last DECODE succeeded (R26). -/
  decValid : Bool
  /-- STATUS[2], the last DECODE met a code with no name (R27). -/
  warn : Bool
  /-- STATUS[3], some command erred since CLRERR or reset (R28). -/
  stickyErr : Bool
  /-- STATUS[7:4], the last command's error code (R29). -/
  errCode : BitVec 4
  /-- STATUS[15:8], the field at fault, or 0xFF (R30). -/
  errField : BitVec 8
  /-- STATUS[17:16], the LTOT halves at fault (R31). -/
  errSub : BitVec 2
deriving DecidableEq, Repr

/-- An entry of TT_LIST: a code, and whether `ticketTypeToName` has it (10_state.md R42). -/
structure TicketEntry where
  code : TicketCode
  known : Bool
deriving DecidableEq, Repr

/-- What the host side can do to the block: a bus read or write of `bytes` bytes at a window offset
(20_memory.md R50, R51), or the platform's reset input (70_reset_and_hazards.md R190; DEDUCED, assumption 8). -/
inductive HostEvent where
  /-- `MemRead(off, bytes)`. -/
  | read (bytes : Nat) (off : BitVec 8)
  /-- `MemWrite(off, bytes, data)`. -/
  | write (bytes : Nat) (off : BitVec 8) (data : Word)
  /-- The platform's reset input. -/
  | reset
deriving DecidableEq, Repr

/-- The state of the block. ID is a constant and CMD keeps nothing (10_state.md R23, R32), so neither has
a field. -/
structure State where
  /-- STATUS (R24). -/
  status : Status
  /-- REC0, record bytes 0..3 (R33). -/
  rec0 : Word
  /-- REC1, record bytes 4..7. -/
  rec1 : Word
  /-- REC2, record bytes 8..11. -/
  rec2 : Word
  /-- REC3, record bytes 12..15. -/
  rec3 : Word
  /-- REC4[23:0], record bytes 16..18; bits [31:24] do not exist (R34). -/
  rec4 : BitVec 24
  /-- SEQ in its view `S` (R35, 00_scope.md R9). -/
  seq : Seq
  /-- FIELD[0..10] (R36). -/
  fields : PerField Word
  /-- ORIG_CODE (R37). -/
  origCode : Word
  /-- DEST_CODE (R38). -/
  destCode : Word
  /-- LTOT_CODE (R39). -/
  ltotCode : Word
  /-- EXPIRY (R40). -/
  expiry : Word
  /-- TT_COUNT (R41). -/
  ttCount : Word
  /-- TT_CODE (R42). -/
  ttCode : Word
  /-- RESULT (R43). -/
  result : Word
  /-- TT_LIST (R42). -/
  ttList : List TicketEntry
  /-- The OPEN parameters `EPOCH_DATE`, `REF_INDEX` and `BASE`, which nothing writes (R44; DESIGN CHOICE, assumption 1). -/
  params : Params
  /-- The MODEL'S OWN: what the host has issued and the block has not served, oldest first (DESIGN CHOICE, assumption 4). -/
  pending : List HostEvent
  /-- The MODEL'S OWN: the values the host's reads have returned, oldest first (DESIGN CHOICE, assumption 4). -/
  readLog : List Word
deriving DecidableEq, Repr

/-- A fault of the machine. There is NONE: the block has no trap and cannot hang, and an error of a
command is a value in STATUS (60_exceptions.md R174, R175; DEDUCED, assumption 9). Nobody raises one: safe. -/
inductive Fault where
deriving DecidableEq, Repr

/-- Why a step has no meaning. -/
inductive Refusal where
  /-- Raised by `exec` for an instruction with no meaning yet; no arm of this model does. Safe. -/
  | notModelled (mnemonic : String)
  /-- Raised by `serve` for a bus access that is not 32 bits wide or not at a multiple of 4, which
  20_memory.md R51 tells a model to refuse (DEDUCED, assumption 6). Safe: nothing can be proved of it. -/
  | accessNotModelled
deriving DecidableEq, Repr

/-- The outcome of a step of the block. -/
abbrev Result := Host.Outcome State Fault Refusal

/-- The state after power-up or the reset input: every register as 70_reset_and_hazards.md R190 gives it;
the parameters at the platform's free choice (DESIGN CHOICE, assumption 1); the model's own lists empty (DESIGN CHOICE, assumption 4). -/
def State.reset : State where
  status := ⟨false, false, false, false, 0, 0, 0⟩
  rec0 := 0
  rec1 := 0
  rec2 := 0
  rec3 := 0
  rec4 := 0
  seq := 0
  fields := ⟨0, 0, 0, 0, 0, 0, 0, 0, 0, 0, 0⟩
  origCode := 0
  destCode := 0
  ltotCode := 0
  expiry := 0
  ttCount := 0
  ttCode := 0
  result := 0
  ttList := []
  params := Config.platform
  pending := []
  readLog := []

end Sys2Proof.Machine
end

