-- ==== Sys2Proof/Machine/Flags.lean ====
section
/-! DEFINITION. The STATUS register: its packing (10_state.md R24), the error codes (60_exceptions.md
R170), and what a command that succeeds or errs writes to it (R174). -/

namespace Sys2Proof.Machine

/-- The errors a command can raise (60_exceptions.md R170). -/
inductive ErrorKind where
  | fieldRange
  | alphabetRange
  | illegalCmd
  | noSequence
  | operandRange
deriving DecidableEq, Repr

/-- The error codes of 60_exceptions.md R170. -/
def ErrorKind.code : ErrorKind → BitVec 4
  | .fieldRange => 1
  | .alphabetRange => 2
  | .illegalCmd => 3
  | .noSequence => 4
  | .operandRange => 5

/-- An error `E(f, sub)` as `raise` takes it (60_exceptions.md R174). -/
structure CmdError where
  kind : ErrorKind
  field : BitVec 8
  sub : BitVec 2
deriving DecidableEq, Repr

/-- `E(0xFF)`: an error that names no field, with `sub` 0 (60_exceptions.md R172, R174). -/
def CmdError.plain (kind : ErrorKind) : CmdError := ⟨kind, 0xFF, 0⟩

/-- A flag as a bus bit. -/
def flagWord (b : Bool) : Word := if b then 1 else 0

/-- STATUS as a bus read returns it (10_state.md R24). -/
def Status.word (t : Status) : Word :=
  flagWord t.seqValid ||| (flagWord t.decValid <<< 1) ||| (flagWord t.warn <<< 2)
    ||| (flagWord t.stickyErr <<< 3) ||| (t.errCode.zeroExtend 32 <<< 4)
    ||| (t.errField.zeroExtend 32 <<< 8) ||| (t.errSub.zeroExtend 32 <<< 16)

/-- A command that succeeds writes 0 to ERRCODE, ERRFIELD and ERRSUB (10_state.md R29 to R31). -/
def Status.succeed (t : Status) : Status := { t with errCode := 0, errField := 0, errSub := 0 }

/-- What `raise E(f, sub)` writes to STATUS (60_exceptions.md R174). -/
def Status.fail (t : Status) (e : CmdError) : Status :=
  { t with errCode := e.kind.code, errField := e.field, errSub := e.sub, stickyErr := true }

end Sys2Proof.Machine
end

