-- ==== Sys2Proof/Machine/Operands.lean ====
section
/-! DEFINITION. What commands compute from their operands: the field table and the extractor
(41_slicers.md R100 to R105), the location and LTOT alphabets (42_domain_luts.md R120, R123) and the
reference-index look-ups (43_decode_resolve.md R145). -/

namespace Sys2Proof

namespace PerField

/-- The thing of row k (41_slicers.md R101). -/
def get {α : Type} (v : PerField α) : Fin 11 → α
  | 0 => v.origPfx
  | 1 => v.origSfx
  | 2 => v.destPfx
  | 3 => v.destSfx
  | 4 => v.route
  | 5 => v.ltot
  | 6 => v.status
  | 7 => v.ticketClass
  | 8 => v.dateMode
  | 9 => v.owner
  | 10 => v.expiry

/-- The same function on every row. -/
def map {α β : Type} (f : α → β) (v : PerField α) : PerField β :=
  ⟨f v.origPfx, f v.origSfx, f v.destPfx, f v.destSfx, f v.route, f v.ltot, f v.status,
    f v.ticketClass, f v.dateMode, f v.owner, f v.expiry⟩

/-- The rows in order, k = 0..10. -/
def toList {α : Type} (v : PerField α) : List α :=
  [v.origPfx, v.origSfx, v.destPfx, v.destSfx, v.route, v.ltot, v.status, v.ticketClass,
    v.dateMode, v.owner, v.expiry]

end PerField

/-- A FieldSpec: where a field lies, in specification numbering (41_slicers.md R100). -/
structure FieldSpec where
  start : Nat
  length : Nat
deriving DecidableEq, Repr

/-- A field layout: `FIELD_TABLE` with its `HEADER_ADJ`. The block has the default one; the rules are
written over any (00_scope.md R8; DESIGN CHOICE, assumption 3). -/
structure Layout where
  table : PerField FieldSpec
  headerAdj : Nat
deriving DecidableEq, Repr

/-- The layout of the hardware: the eleven rows of 41_slicers.md R101 and `HEADER_ADJ` = 24. -/
def Layout.default : Layout where
  table :=
    { origPfx := ⟨171, 5⟩
      origSfx := ⟨161, 10⟩
      destPfx := ⟨156, 5⟩
      destSfx := ⟨146, 10⟩
      route := ⟨135, 11⟩
      ltot := ⟨125, 10⟩
      status := ⟨118, 7⟩
      ticketClass := ⟨117, 1⟩
      dateMode := ⟨116, 11⟩
      owner := ⟨104, 2⟩
      expiry := ⟨33, 9⟩ }
  headerAdj := Config.headerAdj

/-- The bounds a non-default layout must keep (92_eei_decisions.md D18, 42_domain_luts.md R128). -/
def Layout.bounded (l : Layout) : Bool :=
  (l.table.toList.all fun f => decide (f.length ≤ 32)) && decide (l.table.origSfx.length ≤ 16)
    && decide (l.table.destSfx.length ≤ 16) && decide (l.table.expiry.length ≤ 9)

namespace Slicer

/-- Sequence bit `seq[p]`, that is `S[151 - p]` (00_scope.md R9). -/
def seqBit (seq : Seq) (p : Nat) : Nat := (seq.getMsbD p).toNat

/-- `physicalStart`, over the integers (41_slicers.md R102). -/
def physicalStart (headerAdj : Nat) (f : FieldSpec) : Int :=
  (Config.seqBits : Int) - f.start - f.length + headerAdj

/-- The range check (41_slicers.md R104). -/
def inRange (headerAdj : Nat) (f : FieldSpec) : Bool :=
  decide (0 ≤ physicalStart headerAdj f)
    && decide (physicalStart headerAdj f + f.length ≤ Config.seqBits)

/-- The loop of 41_slicers.md R102: `n` bits from sequence index `ps`, the first the most significant. -/
def readBits (seq : Seq) (ps : Nat) : Nat → Nat
  | 0 => 0
  | n + 1 => readBits seq ps n * 2 + seqBit seq (ps + n)

/-- The bits of a field that passes the range check: a slicer's output (41_slicers.md R102, R105). -/
def slicer (headerAdj : Nat) (seq : Seq) (f : FieldSpec) : Nat :=
  readBits seq (physicalStart headerAdj f).toNat f.length

/-- `extract(seq, (start, length))`; `none` where it raises FIELD_RANGE (41_slicers.md R102, R104). -/
def extract (headerAdj : Nat) (seq : Seq) (f : FieldSpec) : Option Nat :=
  if inRange headerAdj f then some (slicer headerAdj seq f) else none

/-- The lowest row from row k on that fails the range check (43_decode_resolve.md R140). -/
def firstOutOfRange (headerAdj : Nat) : Nat → List FieldSpec → Option Nat
  | _, [] => none
  | k, f :: rest => if inRange headerAdj f then firstOutOfRange headerAdj (k + 1) rest else some k

end Slicer

namespace Alphabet

/-- `chr(c)`: the 8-bit ASCII code of a character (00_scope.md R10, R11). -/
def chr (c : Char) : Byte := BitVec.ofNat 8 c.toNat

/-- `ALPHA32` (00_scope.md R6, 42_domain_luts.md R120). -/
def alpha32 : List Char :=
  ['0', '1', '2', '3', '4', '5', '6', '7', '8', '9', 'A', 'B', 'C', 'D', 'E', 'F']
    ++ ['G', 'H', 'I', 'J', 'K', 'L', 'M', 'N', 'O', 'P', 'Q', 'R', 'S', 'T', 'U', 'V']

/-- `ALPHA26` (00_scope.md R6, 42_domain_luts.md R123). -/
def alpha26 : List Char :=
  ['A', 'B', 'C', 'D', 'E', 'F', 'G', 'H', 'I', 'J', 'K', 'L', 'M']
    ++ ['N', 'O', 'P', 'Q', 'R', 'S', 'T', 'U', 'V', 'W', 'X', 'Y', 'Z']

/-- `locChar(idx)`; `none` where it raises ALPHABET_RANGE, for idx ≥ 32 (42_domain_luts.md R120). -/
def locChar (idx : Nat) : Option Byte := alpha32[idx]?.map chr

/-- The letter of one LTOT half; `none` for a half above 25 (42_domain_luts.md R123). -/
def letter (half : Nat) : Option Byte := alpha26[half]?.map chr

/-- Which halves of a raw LTOT value exceed 25: bit 0 the high half, bit 1 the low (42_domain_luts.md
R123, 10_state.md R31). -/
def ltotSub (raw : Nat) : BitVec 2 :=
  (if raw / 32 > 25 then 1 else 0) ||| (if raw % 32 > 25 then 2 else 0)

/-- `ltotChars(raw)`: the two letters, the high half's first, or the ERRSUB of the ALPHABET_RANGE it
raises (42_domain_luts.md R123). -/
def ltotChars (raw : Nat) : Except (BitVec 2) (Byte × Byte) :=
  match letter (raw / 32), letter (raw % 32) with
  | some c0, some c1 => .ok (c0, c1)
  | _, _ => .error (ltotSub raw)

end Alphabet

namespace RefIndex

/-- `lookupTypes(R, key)`: the ordered list of codes, empty when the key is absent (43_decode_resolve.md
R145). -/
def lookupTypes (r : RefIndex) (key : LtotKey) : List TicketCode :=
  (r.ltotToTicketTypes.lookup key).getD []

/-- `known(R, c)`: whether the code has a name (43_decode_resolve.md R145). -/
def known (r : RefIndex) (c : TicketCode) : Bool := (r.ticketTypeToName.lookup c).isSome

end RefIndex

end Sys2Proof
end

