-- ==== Sys2Proof/Machine/Ops.lean ====
section
/-! DEFINITION. The named operations on the state: the record and its bytes, the bit-reorder network, the
register window, raising an error and every group of registers a command writes together. -/

namespace Sys2Proof.Machine

/-- `reverse8(b)[j] = b[7 - j]` (40_bit_reorder.md R90). -/
def reverse8 (b : Byte) : Byte :=
  BitVec.ofBool (b.getLsbD 0) ++ BitVec.ofBool (b.getLsbD 1) ++ BitVec.ofBool (b.getLsbD 2)
    ++ BitVec.ofBool (b.getLsbD 3) ++ BitVec.ofBool (b.getLsbD 4) ++ BitVec.ofBool (b.getLsbD 5)
    ++ BitVec.ofBool (b.getLsbD 6) ++ BitVec.ofBool (b.getLsbD 7)

/-- Byte lane k of a word: bits [8k+7:8k] (20_memory.md R55). -/
def byteLane (w : Word) (k : Nat) : Byte := w.extractLsb' (8 * k) 8

/-- REC4 as a bus word: bits [31:24] read 0 (10_state.md R34). -/
def State.rec4Word (s : State) : Word := s.rec4.zeroExtend 32

/-- The word of REC j (10_state.md R33). -/
def State.recWord (s : State) (j : Nat) : Word :=
  match j with
  | 0 => s.rec0
  | 1 => s.rec1
  | 2 => s.rec2
  | 3 => s.rec3
  | 4 => s.rec4Word
  | _ => 0

/-- Record byte `rec[i]`, i = 4j + k: bits [8k+7:8k] of REC j (10_state.md R33). -/
def State.recByte (s : State) (i : Nat) : Byte := byteLane (s.recWord (i / 4)) (i % 4)

/-- `build(rec)` in the view `S`: the reversed bytes side by side, `rec[0]`'s highest
(40_bit_reorder.md R91). -/
def buildSeq (byte : Nat → Byte) : Seq :=
  reverse8 (byte 0) ++ reverse8 (byte 1) ++ reverse8 (byte 2) ++ reverse8 (byte 3)
    ++ reverse8 (byte 4) ++ reverse8 (byte 5) ++ reverse8 (byte 6) ++ reverse8 (byte 7)
    ++ reverse8 (byte 8) ++ reverse8 (byte 9) ++ reverse8 (byte 10) ++ reverse8 (byte 11)
    ++ reverse8 (byte 12) ++ reverse8 (byte 13) ++ reverse8 (byte 14) ++ reverse8 (byte 15)
    ++ reverse8 (byte 16) ++ reverse8 (byte 17) ++ reverse8 (byte 18)

/-- The register at a window offset, as a bus read returns it (10_state.md R22, 20_memory.md R54).
Reserved offsets and CMD read 0. -/
def State.readReg (s : State) (off : BitVec 8) : Word :=
  match off.toNat with
  | 0x00 => Config.idValue
  | 0x08 => s.status.word
  | 0x10 => s.rec0
  | 0x14 => s.rec1
  | 0x18 => s.rec2
  | 0x1C => s.rec3
  | 0x20 => s.rec4Word
  | 0x40 => s.fields.origPfx
  | 0x44 => s.fields.origSfx
  | 0x48 => s.fields.destPfx
  | 0x4C => s.fields.destSfx
  | 0x50 => s.fields.route
  | 0x54 => s.fields.ltot
  | 0x58 => s.fields.status
  | 0x5C => s.fields.ticketClass
  | 0x60 => s.fields.dateMode
  | 0x64 => s.fields.owner
  | 0x68 => s.fields.expiry
  | 0x80 => s.origCode
  | 0x84 => s.destCode
  | 0x88 => s.ltotCode
  | 0x8C => s.expiry
  | 0x90 => s.ttCount
  | 0x94 => s.ttCode
  | 0x98 => s.result
  | _ => 0

/-- The host's byte view of the window: lane k of the register at `off` is the byte at `off + k`
(20_memory.md R55). -/
def State.windowByte (s : State) (a : BitVec 8) : Byte :=
  byteLane (s.readReg (BitVec.ofNat 8 (a.toNat / 4 * 4))) (a.toNat % 4)

/-- A write to any register but CMD: the REC registers take the data, REC4 its low 24 bits, and nothing
else changes (20_memory.md R54). -/
def State.writeReg (s : State) (off : BitVec 8) (data : Word) : State :=
  match off.toNat with
  | 0x10 => { s with rec0 := data }
  | 0x14 => { s with rec1 := data }
  | 0x18 => { s with rec2 := data }
  | 0x1C => { s with rec3 := data }
  | 0x20 => { s with rec4 := data.setWidth 24 }
  | _ => s

/-- RESULT <- v (10_state.md R43). -/
def State.setResult (s : State) (v : Word) : State := { s with result := v }

/-- TT_CODE <- v (10_state.md R42). -/
def State.setTtCode (s : State) (v : Word) : State := { s with ttCode := v }

/-- The command succeeds: ERRCODE, ERRFIELD and ERRSUB <- 0 (10_state.md R29 to R31). -/
def State.succeed (s : State) : State := { s with status := s.status.succeed }

/-- `raise E(f, sub)`: the whole error mechanism, the command's own on-error writes apart
(60_exceptions.md R174). There is no return from it: the block takes the next command (R175, R178). -/
def State.raise (s : State) (e : CmdError) : State := { s with status := s.status.fail e }

/-- STICKY_ERR <- 0 (44_control.md R161). -/
def State.clearSticky (s : State) : State := { s with status := { s.status with stickyErr := false } }

/-- SEQ <- build(rec) and SEQ_VALID <- 1 (40_bit_reorder.md R93, 43_decode_resolve.md R141). -/
def State.rebuild (s : State) : State :=
  { s with seq := buildSeq s.recByte, status := { s.status with seqValid := true } }

/-- What a failing DECODE leaves in its result registers (43_decode_resolve.md R143). -/
def State.clearDecode (s : State) : State :=
  { s with
    fields := ⟨0, 0, 0, 0, 0, 0, 0, 0, 0, 0, 0⟩
    origCode := 0
    destCode := 0
    ltotCode := 0
    expiry := 0
    ttCount := 0
    ttCode := 0
    ttList := []
    status := { s.status with decValid := false, warn := false } }

/-- The reset state, as the reset input and SRESET apply it: the parameters stay (70_reset_and_hazards.md
R190), and so do the model's own lists, which are the host's and not the block's (DEDUCED, assumption 8). -/
def State.applyReset (s : State) : State :=
  { State.reset with params := s.params, pending := s.pending, readLog := s.readLog }

end Sys2Proof.Machine
end

