-- ==== Sys2Proof/Machine/Control.lean ====
section
/-! DEFINITION. The control commands NOP, CLRERR and SRESET (44_control.md). -/

namespace Sys2Proof.Machine

/-- NOP (44_control.md R160). -/
def execNop (s : State) : Result := .next s.succeed

/-- CLRERR (44_control.md R161). -/
def execClrerr (s : State) : Result := .next s.clearSticky.succeed

/-- SRESET (44_control.md R162). -/
def execSreset (s : State) : Result := .next s.applyReset

end Sys2Proof.Machine
end

