-- ==== Sys2Proof/Machine/Slice.lean ====
section
/-! DEFINITION. The barrel shifter's command, SLICE (41_slicers.md), and the two endings it shares with
the look-up commands. -/

namespace Sys2Proof.Machine

/-- RESULT takes the command's output and the command succeeds (10_state.md R43). -/
def State.finish (s : State) (v : Word) : State := (s.setResult v).succeed

/-- A failing SLICE, XLOC, XLTOT or XDATE: RESULT <- 0 and the error is raised (60_exceptions.md R174). -/
def State.abort (s : State) (e : CmdError) : State := (s.setResult 0).raise e

/-- SLICE START, LEN: NO_SEQUENCE, then OPERAND_RANGE, then FIELD_RANGE, else the field
(41_slicers.md R107). -/
def execSlice (start len : Nat) (s : State) : Result :=
  if s.status.seqValid = false then .next (s.abort (.plain .noSequence))
  else if Config.maxSlice < len then .next (s.abort (.plain .operandRange))
  else
    match Slicer.extract Config.headerAdj s.seq ⟨start, len⟩ with
    | none => .next (s.abort (.plain .fieldRange))
    | some v => .next (s.finish (BitVec.ofNat 32 v))

end Sys2Proof.Machine
end

