-- ==== Sys2Proof/Machine/Lookup.lean ====
section
/-! DEFINITION. The look-up commands XLOC, XLTOT and XDATE (42_domain_luts.md). -/

namespace Sys2Proof.Machine

/-- The two letters as a register holds them: the first in [7:0], the second in [15:8]
(42_domain_luts.md R130, 10_state.md R39). -/
def packLetters (c0 c1 : Byte) : Word := c0.zeroExtend 32 ||| (c1.zeroExtend 32 <<< 8)

/-- XLOC IDX (42_domain_luts.md R129). -/
def execXloc (idx : Nat) (s : State) : Result :=
  match Alphabet.locChar idx with
  | none => .next (s.abort (.plain .alphabetRange))
  | some c => .next (s.finish (c.zeroExtend 32))

/-- XLTOT RAW (42_domain_luts.md R130). -/
def execXltot (raw : Nat) (s : State) : Result :=
  match Alphabet.ltotChars raw with
  | .error sub => .next (s.abort ⟨.alphabetRange, 0xFF, sub⟩)
  | .ok (c0, c1) => .next (s.finish (packLetters c0 c1))

/-- XDATE OFF (42_domain_luts.md R131). -/
def execXdate (off : Nat) (s : State) : Result :=
  .next (s.finish (Calendar.packDate (Calendar.addDays s.params.epoch.date off)))

end Sys2Proof.Machine
end

