-- ==== Sys2Proof/Machine/Pipeline.lean ====
section
/-! DEFINITION. The DECODE pipeline and ticket-type resolution (43_decode_resolve.md): DECODE and TTSEL. -/

namespace Sys2Proof.Machine

/-- The outputs of a DECODE that succeeds (43_decode_resolve.md R140). -/
structure Decoded where
  fields : PerField Word
  origCode : Word
  destCode : Word
  ltotCode : Word
  expiry : Word
  tickets : List TicketEntry
deriving DecidableEq, Repr

/-- A location code: the suffix in [15:0], the prefix character in [23:16] (10_state.md R37). -/
def packLocation (suffix : Nat) (c : Byte) : Word :=
  BitVec.ofNat 32 suffix ||| (c.zeroExtend 32 <<< 16)

/-- TT_LIST for the letters: the codes in order, each with its known bit (43_decode_resolve.md R145). -/
def resolveTickets (r : RefIndex) (key : LtotKey) : List TicketEntry :=
  (r.lookupTypes key).map fun c => ⟨c, r.known c⟩

/-- Steps 3 to 5 of DECODE on the eleven extracted values: the prefix checks in the order 0, 2, the LTOT
check, and the outputs (43_decode_resolve.md R140, R142). -/
def resolveFields (p : Params) (v : PerField Nat) : Except CmdError Decoded :=
  match Alphabet.locChar v.origPfx with
  | none => .error ⟨.alphabetRange, 0, 0⟩
  | some orig =>
    match Alphabet.locChar v.destPfx with
    | none => .error ⟨.alphabetRange, 2, 0⟩
    | some dest =>
      match Alphabet.ltotChars v.ltot with
      | .error sub => .error ⟨.alphabetRange, 5, sub⟩
      | .ok (l0, l1) => .ok
          { fields := v.map (BitVec.ofNat 32)
            origCode := packLocation v.origSfx orig
            destCode := packLocation v.destSfx dest
            ltotCode := packLetters l0 l1
            expiry := Calendar.packDate (Calendar.addDays p.epoch.date v.expiry)
            tickets := resolveTickets p.refIndex ⟨l0, l1⟩ }

/-- DECODE from the bit sequence on, over any layout: the range checks, lowest row first, the slicers, and
the rest (43_decode_resolve.md R140, R141). -/
def decodeSeq (l : Layout) (p : Params) (seq : Seq) : Except CmdError Decoded :=
  match Slicer.firstOutOfRange l.headerAdj 0 l.table.toList with
  | some k => .error ⟨.fieldRange, BitVec.ofNat 8 k, 0⟩
  | none => resolveFields p (l.table.map (Slicer.slicer l.headerAdj seq))

/-- The registers a DECODE that succeeds writes (43_decode_resolve.md R140, R146). -/
def State.commitDecode (s : State) (d : Decoded) : State :=
  { s with
    fields := d.fields
    origCode := d.origCode
    destCode := d.destCode
    ltotCode := d.ltotCode
    expiry := d.expiry
    ttCount := BitVec.ofNat 32 d.tickets.length
    ttCode := 0
    ttList := d.tickets
    status := { s.status with decValid := true, warn := d.tickets.any fun e => !e.known } }

/-- DECODE (43_decode_resolve.md R140, R143). -/
def execDecode (s : State) : Result :=
  match decodeSeq Layout.default s.params s.rebuild.seq with
  | .error e => .next (s.rebuild.clearDecode.raise e)
  | .ok d => .next (s.rebuild.commitDecode d).succeed

/-- An entry as TT_CODE shows it: the three characters, KNOWN in bit 24, SEL_VALID in bit 31
(10_state.md R42, 43_decode_resolve.md R148). -/
def packTicket (e : TicketEntry) : Word :=
  e.code.char0.zeroExtend 32 ||| (e.code.char1.zeroExtend 32 <<< 8)
    ||| (e.code.char2.zeroExtend 32 <<< 16) ||| (flagWord e.known <<< 24) ||| (1 <<< 31)

/-- TTSEL K: OPERAND_RANGE for K ≥ TT_COUNT, TT_CODE unchanged; else entry K (43_decode_resolve.md R148).
An entry that TT_COUNT promises and TT_LIST lacks, which no run reaches, is out of range too
(DESIGN CHOICE, assumption 12). -/
def execTtsel (k : Nat) (s : State) : Result :=
  if s.ttCount.toNat ≤ k then .next (s.raise (.plain .operandRange))
  else
    match s.ttList[k]? with
    | none => .next (s.raise (.plain .operandRange))
    | some e => .next (s.setTtCode (packTicket e)).succeed

end Sys2Proof.Machine
end

