-- ==== Sys2Proof/Machine/Reorder.lean ====
section
/-! DEFINITION. The Bit Sequence Builder's command, BUILD (40_bit_reorder.md). -/

namespace Sys2Proof.Machine

/-- BUILD (40_bit_reorder.md R93). -/
def execBuild (s : State) : Result := .next s.rebuild.succeed

end Sys2Proof.Machine
end

