-- ==== Sys2Proof/Machine/Dispatch.lean ====
section
/-! DEFINITION. The dispatch: one arm per command (30_encoding.md R73). -/

namespace Sys2Proof.Machine

def exec (i : Instr) (s : State) : Host.Outcome State Fault Refusal :=
  match i with
  | .nop => Sys2Proof.Machine.execNop s
  | .build => Sys2Proof.Machine.execBuild s
  | .slice start len => Sys2Proof.Machine.execSlice start len s
  | .decode => Sys2Proof.Machine.execDecode s
  | .xloc idx => Sys2Proof.Machine.execXloc idx s
  | .xltot raw => Sys2Proof.Machine.execXltot raw s
  | .xdate off => Sys2Proof.Machine.execXdate off s
  | .ttsel k => Sys2Proof.Machine.execTtsel k s
  | .clrerr => Sys2Proof.Machine.execClrerr s
  | .sreset => Sys2Proof.Machine.execSreset s

end Sys2Proof.Machine
end

