-- ==== Sys2Proof/Machine/Bus.lean ====
section
/-! DEFINITION. The register bus: what one host access or reset pulse does (20_memory.md), how a CMD write
runs a command (10_state.md R32), and where the window lies (20_memory.md R50). -/

namespace Sys2Proof

/-- The window offset a host address reaches, if it lies in the 256-byte window at BASE (20_memory.md
R50). -/
def Params.windowOffset (p : Params) (addr : Nat) : Option (BitVec 8) :=
  if p.base ≤ addr ∧ addr < p.base + 256 then some (BitVec.ofNat 8 (addr - p.base)) else none

namespace Machine

/-- The offset of CMD (10_state.md R22). -/
def cmdOffset : BitVec 8 := 0x04

/-- Running a command word: the command it encodes, or ILLEGAL_CMD with no other effect (30_encoding.md
R74, R75; 60_exceptions.md R176). -/
def runCommand (w : Word) (s : State) : Result :=
  match decode w with
  | .ok i => exec i s
  | .error _ => .next (s.raise (.plain .illegalCmd))

/-- Whether the bus models the access: 32 bits wide, at a multiple of 4 (20_memory.md R51). -/
def accessModelled (bytes : Nat) (off : BitVec 8) : Bool :=
  decide (bytes = Config.busBytes) && decide (off.toNat % 4 = 0)

/-- One host event, one step (20_memory.md R54, R58): a read returns its register's value to the host, a
CMD write runs its command, another write writes its register, the reset input resets. An access the bus
does not model is refused (R51). -/
def serve (e : HostEvent) (s : State) : Result :=
  match e with
  | .read bytes off =>
    if accessModelled bytes off then .next { s with readLog := s.readLog ++ [s.readReg off] }
    else .refused .accessNotModelled
  | .write bytes off data =>
    if accessModelled bytes off then
      if off = cmdOffset then runCommand data s else .next (s.writeReg off data)
    else .refused .accessNotModelled
  | .reset => .next s.applyReset

/-- The oldest event the host has issued is served; with none the block waits and nothing changes
(10_state.md R20, 70_reset_and_hazards.md R191; DEDUCED, assumption 5). -/
def serveNext (s : State) : Result :=
  match s.pending with
  | [] => .next s
  | e :: rest => serve e { s with pending := rest }

/-- The state with one more event, to be served before the others. -/
def State.issueFirst (s : State) (e : HostEvent) : State := { s with pending := e :: s.pending }

end Machine

end Sys2Proof
end

