-- ==== Sys2Proof/Machine/Step.lean ====
section
/-! DEFINITION. One step of the block, and how the host hands it a command word (DESIGN CHOICE, assumption 7). -/

namespace Sys2Proof.Machine

/-- One step: one host event, atomically (20_memory.md R58). -/
def step (s : State) : Host.Outcome State Fault Refusal := serveNext s

/-- The state in which the next host access is a CMD write of the word: a command is not fetched, it is the
data of a CMD write (20_memory.md R66). -/
def State.withFetchWord (s : State) (nbits w : Nat) : State :=
  s.issueFirst (.write Config.busBytes cmdOffset (tableWord nbits w))

end Sys2Proof.Machine
end

