-- ==== Sys2Proof/Machine/HostSide.lean ====
section
/-! DEFINITION. The host's side of the bus: the assembler lines of 30_encoding.md R77 to R79 as the accesses
they stand for. The block itself uses none of this (DESIGN CHOICE, assumption 15). -/

namespace Sys2Proof.Machine

/-- The value of a hex digit (70_reset_and_hazards.md R196); capital and small letters both count (DESIGN
CHOICE, assumption 21). -/
def hexDigit (c : Char) : Option Nat :=
  let n := c.toNat
  if 0x30 ≤ n ∧ n ≤ 0x39 then some (n - 0x30)
  else if 0x41 ≤ n ∧ n ≤ 0x46 then some (n - 0x41 + 10)
  else if 0x61 ≤ n ∧ n ≤ 0x66 then some (n - 0x61 + 10)
  else none

/-- The bytes a hex text spells, the first digit of each pair the high nibble; none for an odd count or a
character that is no hex digit (70_reset_and_hazards.md R196). -/
def hexBytes : List Char → Option (List Byte)
  | [] => some []
  | [_] => none
  | hi :: lo :: rest =>
    match hexDigit hi, hexDigit lo, hexBytes rest with
    | some h, some l, some bs => some (BitVec.ofNat 8 (16 * h + l) :: bs)
    | _, _, _ => none

/-- The word `Wj` of LOADREC: bytes 4j..4j+3, absent bytes 0 (30_encoding.md R79). -/
def packWord (bytes : List Byte) (j : Nat) : Word :=
  (bytes.getD (4 * j) 0).zeroExtend 32 ||| ((bytes.getD (4 * j + 1) 0).zeroExtend 32 <<< 8)
    ||| ((bytes.getD (4 * j + 2) 0).zeroExtend 32 <<< 16)
    ||| ((bytes.getD (4 * j + 3) 0).zeroExtend 32 <<< 24)

/-- `WR off, value` (30_encoding.md R77). -/
def busWrite (off : BitVec 8) (v : Word) : HostEvent := .write Config.busBytes off v

/-- `RD off` (30_encoding.md R77). -/
def busRead (off : BitVec 8) : HostEvent := .read Config.busBytes off

/-- LOADREC: the five writes, or nothing for a string that is not 38 hex digits (30_encoding.md R79). -/
def loadRec (digits : List Char) : Option (List HostEvent) :=
  if digits.length = 38 then
    (hexBytes digits).map fun bs =>
      [busWrite 0x10 (packWord bs 0), busWrite 0x14 (packWord bs 1), busWrite 0x18 (packWord bs 2),
        busWrite 0x1C (packWord bs 3), busWrite 0x20 (packWord bs 4)]
  else none

/-- EXTRACT: the SLICE of row k of `FIELD_TABLE` (30_encoding.md R78). -/
def extractCommand (k : Fin 11) : Instr :=
  .slice (Layout.default.table.get k).start (Layout.default.table.get k).length

/-- A line of the assembler (30_encoding.md R77 to R79). -/
inductive HostLine where
  /-- A command line. -/
  | command (i : Instr)
  /-- `WR off, value`. -/
  | write (off : BitVec 8) (v : Word)
  /-- `RD off`. -/
  | read (off : BitVec 8)
  /-- `EXTRACT` of row k. -/
  | extract (k : Fin 11)
  /-- `LOADREC` of a hex text. -/
  | loadRec (digits : List Char)
deriving DecidableEq, Repr

/-- The CMD write a command line stands for; refused where an operand does not fit its field
(30_encoding.md R77). -/
def assembleCommand (i : Instr) : Option HostEvent :=
  if i.wellFormed then some (busWrite cmdOffset (encode i)) else none

/-- The accesses a line stands for; none where the assembler refuses it (30_encoding.md R77 to R79). -/
def HostLine.expand : HostLine → Option (List HostEvent)
  | .command i => (assembleCommand i).map fun e => [e]
  | .write off v => some [busWrite off v]
  | .read off => some [busRead off]
  | .extract k => (assembleCommand (extractCommand k)).map fun e => [e]
  | .loadRec digits => Sys2Proof.Machine.loadRec digits

end Sys2Proof.Machine
end

