-- ==== Sys2Proof/Machine/Reference.lean ====
section
/-! DEFINITION. How the external collaborator builds `REF_INDEX` from the lines of the reference file and the
entries of the structured document (43_decode_resolve.md R149). The block itself uses none of this
(DESIGN CHOICE, assumption 15). -/

namespace Sys2Proof.RefIndex

/-- A comment line begins with `/` (43_decode_resolve.md R149). -/
def isComment (line : List Byte) : Bool := line.head? == some 0x2F

/-- The key at characters [99,101) and the ticket-type code at characters [1,4) (43_decode_resolve.md R149);
none for a line too short to have them (DESIGN CHOICE, assumption 15). Every byte is one character, and none
is refused, ASCII or not (DESIGN CHOICE, assumption 20). -/
def parseLine (line : List Byte) : Option (LtotKey × TicketCode) :=
  match line.drop 1, line.drop 99 with
  | a :: b :: c :: _, x :: y :: _ => some (⟨x, y⟩, ⟨a, b, c⟩)
  | _, _ => none

/-- Append a code to its key's list, keeping duplicates and order (43_decode_resolve.md R149). -/
def appendCode (key : LtotKey) (code : TicketCode) :
    List (LtotKey × List TicketCode) → List (LtotKey × List TicketCode)
  | [] => [(key, [code])]
  | (k, codes) :: rest =>
    if k = key then (k, codes ++ [code]) :: rest else (k, codes) :: appendCode key code rest

/-- The lines in file order, comments left out; none where a line is malformed (43_decode_resolve.md
R149). -/
def collectLines (types : List (LtotKey × List TicketCode)) :
    List (List Byte) → Option (List (LtotKey × List TicketCode))
  | [] => some types
  | line :: rest =>
    if isComment line then collectLines types rest
    else
      match parseLine line with
      | none => none
      | some (key, code) => collectLines (appendCode key code types) rest

/-- `REF_INDEX` from the file's lines and the document's entries, the last entry of a code winning; none
where the collaborator raises ReferenceLoadError or a list passes the bound of R150 (43_decode_resolve.md
R149). -/
def ofReference (lines : List (List Byte)) (entries : List (TicketCode × String)) : Option RefIndex :=
  match collectLines [] lines with
  | none => none
  | some types =>
    if h : (types.all fun e => decide (e.2.length ≤ 65535)) = true then
      some { ltotToTicketTypes := types, ticketTypeToName := entries.reverse, bounded := h }
    else none

end Sys2Proof.RefIndex
end

