-- ==== Sys2Proof/Safety.lean ====
section
/-! DEFINITION. The terms claims are stated in: the register invariant of 10_state.md, a run with no error
recorded, the modelled accesses, and the spec's arithmetic forms of what the machine computes. -/

namespace Sys2Proof.Machine

/-- The invariants 10_state.md states of the registers, which every state a run reaches has. -/
structure State.Consistent (s : State) : Prop where
  /-- ERRCODE is 0..5: 6..15 are never produced (60_exceptions.md R170). -/
  errCode_le : s.status.errCode.toNat ≤ 5
  /-- A command that succeeded left no error field (R30, R31). -/
  noError : s.status.errCode = 0 → s.status.errField = 0 ∧ s.status.errSub = 0
  /-- An error is recorded in STICKY_ERR (R28). -/
  errorSticky : s.status.errCode ≠ 0 → s.status.stickyErr = true
  /-- ERRFIELD names a row of the field table or is 0xFF (R30). -/
  errField_range : s.status.errField.toNat ≤ 10 ∨ s.status.errField = 0xFF
  /-- ERRSUB is written by ALPHABET_RANGE alone (R31). -/
  errSub_kind : s.status.errSub ≠ 0 → s.status.errCode = 2
  /-- SEQ is unbuilt, and 0, while SEQ_VALID is 0 (R25, R35). -/
  seq_unbuilt : s.status.seqValid = false → s.seq = 0
  /-- A DECODE has built the sequence (R25, R26). -/
  decoded_built : s.status.decValid = true → s.status.seqValid = true
  /-- With DEC_VALID = 0 every DECODE result register is 0 and TT_LIST is empty (R26, R42). -/
  notDecoded : s.status.decValid = false →
    s.fields = ⟨0, 0, 0, 0, 0, 0, 0, 0, 0, 0, 0⟩ ∧ s.origCode = 0 ∧ s.destCode = 0 ∧ s.ltotCode = 0
      ∧ s.expiry = 0 ∧ s.ttCount = 0 ∧ s.ttCode = 0 ∧ s.ttList = []
  /-- Each FIELD register holds a value of its row's width (R36, 41_slicers.md R109). -/
  field_width : ∀ k : Fin 11, (s.fields.get k).toNat < 2 ^ (Layout.default.table.get k).length
  /-- With DEC_VALID = 1 the code registers, EXPIRY and TT_LIST are those of the FIELD registers (R37 to
  R42). -/
  decoded : s.status.decValid = true →
    resolveFields s.params (s.fields.map BitVec.toNat)
      = .ok ⟨s.fields, s.origCode, s.destCode, s.ltotCode, s.expiry, s.ttList⟩
  /-- TT_COUNT is the length of TT_LIST (R41). -/
  count : s.ttCount.toNat = s.ttList.length
  /-- TT_LIST fits TT_COUNT's 16 bits (R41, 43_decode_resolve.md R150). -/
  count_bound : s.ttList.length ≤ 65535
  /-- TT_CODE is 0 or shows an entry of TT_LIST (R42). -/
  selected : s.ttCode = 0 ∨ ∃ e ∈ s.ttList, s.ttCode = packTicket e
  /-- WARN says that TT_LIST has an entry with no name (R27). -/
  warned : s.status.warn = s.ttList.any fun e => !e.known

/-- No error is recorded: the premise of a claim about an error-free run (92_eei_decisions.md D13). -/
def State.NoErrorRecorded (s : State) : Prop := s.status.stickyErr = false

/-- An event the bus models: the reset input, or an access that is 32 bits wide at a multiple of 4
(20_memory.md R51). -/
def HostEvent.modelled : HostEvent → Bool
  | .read bytes off => accessModelled bytes off
  | .write bytes off _ => accessModelled bytes off
  | .reset => true

/-- The lowest bit of field k in the view `S`: the last column of the table of 41_slicers.md R101. -/
def fieldLow (k : Fin 11) : Nat := ([147, 137, 132, 122, 111, 101, 94, 93, 92, 80, 9] : List Nat).getD k 0

/-- The width of field k: the table of 41_slicers.md R101. -/
def fieldWidth (k : Fin 11) : Nat := ([5, 10, 5, 10, 11, 10, 7, 1, 11, 2, 9] : List Nat).getD k 0

/-- Field k of a bit sequence as the bits of `S` that the table of 41_slicers.md R101 names. -/
def fieldValue (seq : Seq) (k : Fin 11) : Nat := seq.toNat / 2 ^ fieldLow k % 2 ^ fieldWidth k

/-- The ASCII code of location prefix idx < 32 as 42_domain_luts.md R120 lists it. -/
def locationAscii (idx : Nat) : Nat := if idx < 10 then 0x30 + idx else 0x41 + (idx - 10)

/-- The month lengths of year y, January first, as 42_domain_luts.md R125 lists them. -/
def monthTable (y : Nat) : List Nat :=
  [31, if y % 4 = 0 ∧ y % 100 ≠ 0 ∨ y % 400 = 0 then 29 else 28, 31, 30, 31, 30, 31, 31, 30, 31, 30, 31]

/-- The days of year y before month m (42_domain_luts.md R125). -/
def daysBeforeMonth (y m : Nat) : Nat := ((monthTable y).take (m - 1)).sum

/-- A Gregorian date: a month of the table and a day of that month (42_domain_luts.md R125, R127). -/
def IsDate (t : Date) : Prop :=
  1 ≤ t.month ∧ 1 ≤ t.day ∧ ∃ len, (monthTable t.year)[t.month - 1]? = some len ∧ t.day ≤ len

/-- The number of a date in the proleptic Gregorian calendar, 0001-01-01 being day 1
(42_domain_luts.md R125). -/
def dayNumber (t : Date) : Nat :=
  365 * (t.year - 1) + (t.year - 1) / 4 - (t.year - 1) / 100 + (t.year - 1) / 400
    + daysBeforeMonth t.year t.month + t.day

/-- 29 February. -/
def leapDay (t : Date) : Bool := t.month == 2 && t.day == 29

/-- The hex digits by value, in capital letters (70_reset_and_hazards.md R196). -/
def hexCapitals : List Char :=
  ['0', '1', '2', '3', '4', '5', '6', '7', '8', '9', 'A', 'B', 'C', 'D', 'E', 'F']

/-- The hex digits by value, in small letters (DESIGN CHOICE, assumption 21). -/
def hexSmalls : List Char :=
  ['0', '1', '2', '3', '4', '5', '6', '7', '8', '9', 'a', 'b', 'c', 'd', 'e', 'f']

/-- The character is the hex digit of value h. -/
def SpellsDigit (c : Char) (h : Nat) : Prop := hexCapitals[h]? = some c ∨ hexSmalls[h]? = some c

/-- The ticket-type code at characters [1,4) of a reference-file line (43_decode_resolve.md R149). -/
def lineCode (text : List Byte) : Option TicketCode :=
  match text[1]?, text[2]?, text[3]? with
  | some a, some b, some c => some ⟨a, b, c⟩
  | _, _, _ => none

/-- The line's key, characters [99,101), is the given one (43_decode_resolve.md R149). -/
def lineHasKey (key : LtotKey) (text : List Byte) : Bool :=
  text[99]? == some key.first && text[100]? == some key.second

/-- A host event that does not touch SEQ or SEQ_VALID: modelled, no reset, and no CMD write of BUILD, DECODE or
SRESET (10_state.md R25, R35). -/
def HostEvent.keepsSequence (e : HostEvent) : Bool :=
  e.modelled && e != .reset && e != .write 4 0x04 0x00000001 && e != .write 4 0x04 0x00000003
    && e != .write 4 0x04 0x00000009

end Sys2Proof.Machine
end

