-- ==== Sys2Proof/Certificates/Slice0/Obligations.lean ====
section
/-! DEFINITION. The statements for the provers: what the rules of spec/ say the block does. -/

open Sys2Proof Sys2Proof.Machine

/-! ## Encoding -/

/-- R71, R76: decoding the word of a command whose operands fit their fields gives the command back. -/
def Obligations.DecodeOfEncodeIsTheCommand : Prop :=
  ∀ i : Instr, i.WellFormed → decode (encode i) = .ok i

/-- R71, R74, R76: a word that decodes to a command is the word of that command, whose operands fit. -/
def Obligations.EncodeOfDecodeIsTheWord : Prop :=
  ∀ (w : Word) (i : Instr), decode w = .ok i → encode i = w ∧ i.WellFormed

/-- R71, R74: a word whose opcode is above 0x09 or that has a reserved bit of its opcode's format set is
rejected, and running it raises ILLEGAL_CMD before anything else; every other word decodes to its opcode's
command with the operand fields of the format, and running it runs that command. -/
def Obligations.DecoderFollowsTheOpcodeMap : Prop :=
  ∀ w : Word,
    let op := w.toNat % 256
    let rejected : Prop := 9 < op
      ∨ ((op = 0 ∨ op = 1 ∨ op = 3 ∨ op = 8 ∨ op = 9) ∧ w &&& 0xFFFFFF00 ≠ 0)
      ∨ (op = 2 ∧ w &&& 0xFFC00000 ≠ 0)
      ∨ (op = 4 ∧ w &&& 0xFFFFC000 ≠ 0)
      ∨ (op = 5 ∧ w &&& 0xFFFC0000 ≠ 0)
      ∨ (op = 6 ∧ w &&& 0xFFFE0000 ≠ 0)
      ∨ (op = 7 ∧ w &&& 0xFF000000 ≠ 0)
    ((∃ r, decode w = .error r) ↔ rejected)
      ∧ (rejected → ∀ s : State, runCommand w s = .next (s.raise (.plain .illegalCmd)))
      ∧ (¬ rejected →
          (op = 0 → decode w = .ok .nop) ∧ (op = 1 → decode w = .ok .build)
            ∧ (op = 2 → decode w = .ok (.slice (w.toNat / 256 % 256) (w.toNat / 65536 % 64)))
            ∧ (op = 3 → decode w = .ok .decode)
            ∧ (op = 4 → decode w = .ok (.xloc (w.toNat / 256 % 64)))
            ∧ (op = 5 → decode w = .ok (.xltot (w.toNat / 256 % 1024)))
            ∧ (op = 6 → decode w = .ok (.xdate (w.toNat / 256 % 512)))
            ∧ (op = 7 → decode w = .ok (.ttsel (w.toNat / 256 % 65536)))
            ∧ (op = 8 → decode w = .ok .clrerr) ∧ (op = 9 → decode w = .ok .sreset))
      ∧ ∀ (s : State) (i : Instr), decode w = .ok i → runCommand w s = exec i s

/-- Words of 95_test_vectors.md, written from R76, decode to their commands. -/
def Obligations.SampleWordsDecode : Prop :=
  decode 0x00000001 = .ok .build ∧ decode 0x0005AB02 = .ok (.slice 171 5)
    ∧ decode 0x00001004 = .ok (.xloc 16) ∧ decode 0x00033905 = .ok (.xltot 825)
    ∧ decode 0x0001FF06 = .ok (.xdate 511) ∧ decode 0x00FFFF07 = .ok (.ttsel 65535)
    ∧ decode 0x00000009 = .ok .sreset

/-! ## The bus and the step -/

/-- R32, R58, R66: a CMD write whose word decodes to a command is one step, and that step is exec of the
command at the state with the access served. The list of issued accesses is the model's own (DESIGN CHOICE,
DESIGN CHOICE, assumption 4). -/
def Obligations.StepRunsTheDecodedCommand : Prop :=
  ∀ (s : State) (w : Word) (i : Instr) (rest : List HostEvent),
    s.pending = .write 4 0x04 w :: rest → decode w = .ok i →
      step s = exec i { s with pending := rest }

/-- R75, R174, R176: a CMD write of a word that is no command sets ERRCODE 3, ERRFIELD 0xFF, ERRSUB 0 and
STICKY_ERR, and changes nothing else. -/
def Obligations.IllegalCommandOnlyRecordsTheError : Prop :=
  ∀ (s : State) (w : Word) (r : Reject) (rest : List HostEvent),
    s.pending = .write 4 0x04 w :: rest → decode w = .error r →
      ∃ t, step s = .next t
        ∧ t.status.word = (s.status.word &&& 0x00000007) ||| 0x0000FF38
        ∧ t = { s with status := t.status, pending := rest }

/-- R20 and DEDUCED, assumption 5: with no host event issued, a step changes nothing. -/
def Obligations.BlockWaitsForTheHost : Prop :=
  ∀ s : State, s.pending = [] → step s = .next s

/-- R51: a step is refused exactly when the oldest host event is an access of another width than 4 bytes or
at an offset that is no multiple of 4. -/
def Obligations.OnlyUnmodelledAccessesAreRefused : Prop :=
  ∀ s : State, (∃ r, step s = .refused r) ↔
    ((∃ bytes off rest, s.pending = .read bytes off :: rest ∧ (bytes ≠ 4 ∨ off.toNat % 4 ≠ 0))
      ∨ (∃ bytes off v rest,
          s.pending = .write bytes off v :: rest ∧ (bytes ≠ 4 ∨ off.toNat % 4 ≠ 0)))

/-- R58, R175: every step from a state whose oldest event the bus models answers a next state; nothing faults
and nothing hangs. That the type of faults is empty is DEDUCED, assumption 9. -/
def Obligations.EveryModelledEventCompletes : Prop :=
  ∀ s : State, (∀ e, s.pending.head? = some e → e.modelled = true) → ∃ t, step s = .next t

/-- R54, R59: a 32-bit read at a multiple of 4 hands the register's value to the host and changes nothing of
the block; and no read of the same register afterwards reads otherwise. The log of read values is the model's
own (DESIGN CHOICE, assumption 4). -/
def Obligations.ReadsHaveNoSideEffect : Prop :=
  ∀ (s : State) (off : BitVec 8) (rest : List HostEvent),
    s.pending = .read 4 off :: rest → off.toNat % 4 = 0 →
      ∃ t, step s = .next t ∧ t.readLog = s.readLog ++ [s.readReg off]
        ∧ (∀ a, t.readReg a = s.readReg a)
        ∧ t = { s with pending := rest, readLog := t.readLog }

/-- R22, R54: a bus read at the offset of each register of the map returns that register: ID, STATUS, REC0 to
REC4, FIELD[0] to FIELD[10], ORIG_CODE, DEST_CODE, LTOT_CODE, EXPIRY, TT_COUNT, TT_CODE and RESULT. The log of
read values is the model's own (DESIGN CHOICE, assumption 4). -/
def Obligations.EveryRegisterReadsAtItsOffset : Prop :=
  ∀ (s : State) (off : BitVec 8) (v : Word) (rest : List HostEvent),
    (off, v) ∈ ([(0x00, 0x3144534D), (0x08, s.status.word), (0x10, s.rec0), (0x14, s.rec1),
        (0x18, s.rec2), (0x1C, s.rec3), (0x20, s.rec4.zeroExtend 32), (0x40, s.fields.origPfx),
        (0x44, s.fields.origSfx), (0x48, s.fields.destPfx), (0x4C, s.fields.destSfx),
        (0x50, s.fields.route), (0x54, s.fields.ltot), (0x58, s.fields.status),
        (0x5C, s.fields.ticketClass), (0x60, s.fields.dateMode), (0x64, s.fields.owner),
        (0x68, s.fields.expiry), (0x80, s.origCode), (0x84, s.destCode), (0x88, s.ltotCode),
        (0x8C, s.expiry), (0x90, s.ttCount), (0x94, s.ttCode), (0x98, s.result)]
      : List (BitVec 8 × Word)) →
    s.pending = .read 4 off :: rest →
      s.readReg off = v ∧ step s = .next { s with pending := rest, readLog := s.readLog ++ [v] }

/-- R24: STATUS reads SEQ_VALID in bit 0, DEC_VALID in bit 1, WARN in bit 2, STICKY_ERR in bit 3, ERRCODE in
[7:4], ERRFIELD in [15:8], ERRSUB in [17:16] and 0 in [31:18]. -/
def Obligations.StatusShowsItsFields : Prop :=
  ∀ s : State,
    let w := s.readReg 0x08
    w.getLsbD 0 = s.status.seqValid ∧ w.getLsbD 1 = s.status.decValid ∧ w.getLsbD 2 = s.status.warn
      ∧ w.getLsbD 3 = s.status.stickyErr
      ∧ w.toNat / 2 ^ 4 % 2 ^ 4 = s.status.errCode.toNat
      ∧ w.toNat / 2 ^ 8 % 2 ^ 8 = s.status.errField.toNat
      ∧ w.toNat / 2 ^ 16 = s.status.errSub.toNat

/-- R54: a write to a REC register sets it to the data (REC4 to the data's low 24 bits), and it reads so;
every other register reads as before, and SEQ, TT_LIST and the parameters stay. -/
def Obligations.RecordWritesReadBack : Prop :=
  ∀ (s : State) (off : BitVec 8) (v : Word) (rest : List HostEvent),
    s.pending = .write 4 off v :: rest → off ∈ ([0x10, 0x14, 0x18, 0x1C, 0x20] : List (BitVec 8)) →
      ∃ t, step s = .next t
        ∧ t.readReg off = (if off = 0x20 then v &&& 0x00FFFFFF else v)
        ∧ (∀ a, a ≠ off → t.readReg a = s.readReg a)
        ∧ t = { s with
            rec0 := t.rec0, rec1 := t.rec1, rec2 := t.rec2, rec3 := t.rec3, rec4 := t.rec4
            pending := rest }

/-- R52, R53: a read at a reserved offset or of CMD returns 0, a write at a reserved offset or to an RO
register has no effect; none of them raises an error or changes STATUS or anything else. -/
def Obligations.ReservedAndReadOnlyAccesses : Prop :=
  ∀ (s : State) (off : BitVec 8) (v : Word) (rest : List HostEvent), off.toNat % 4 = 0 →
    let reserved : Prop := off.toNat = 0x0C ∨ (0x24 ≤ off.toNat ∧ off.toNat ≤ 0x3C)
      ∨ (0x6C ≤ off.toNat ∧ off.toNat ≤ 0x7C) ∨ 0x9C ≤ off.toNat
    let readOnly : Prop := off.toNat = 0x00 ∨ off.toNat = 0x08
      ∨ (0x40 ≤ off.toNat ∧ off.toNat ≤ 0x68) ∨ (0x80 ≤ off.toNat ∧ off.toNat ≤ 0x98)
    (reserved ∨ off.toNat = 0x04 → s.pending = .read 4 off :: rest →
        step s = .next { s with pending := rest, readLog := s.readLog ++ [0] })
      ∧ (reserved ∨ readOnly → s.pending = .write 4 off v :: rest →
        step s = .next { s with pending := rest })

/-- R33, R34, R55: record byte 4j + k is bits [8k+7:8k] of REC j and stands at window byte 0x10 + 4j + k, and
the byte after the last reads 0; byte k of the register at any offset is its bits [8k+7:8k]. -/
def Obligations.RecordBytesInTheHostsView : Prop :=
  (∀ (s : State) (j k : Nat), k < 4 → 4 * j + k < 19 →
      (s.recByte (4 * j + k)).toNat
          = (s.readReg (BitVec.ofNat 8 (0x10 + 4 * j))).toNat / 2 ^ (8 * k) % 256
        ∧ s.windowByte (BitVec.ofNat 8 (0x10 + (4 * j + k))) = s.recByte (4 * j + k))
    ∧ (∀ s : State, s.windowByte 0x23 = 0)
    ∧ ∀ (s : State) (j k : Nat), k < 4 → j < 64 →
        (s.windowByte (BitVec.ofNat 8 (4 * j + k))).toNat
          = (s.readReg (BitVec.ofNat 8 (4 * j))).toNat / 2 ^ (8 * k) % 256

/-- R50: the host address BASE + off reaches window offset off, and no address outside the 256 bytes reaches
the block. BASE is a free parameter (DESIGN CHOICE, assumption 1). -/
def Obligations.WindowLiesAtBase : Prop :=
  ∀ (p : Params) (addr : Nat),
    (∀ off : BitVec 8, p.windowOffset (p.base + off.toNat) = some off)
      ∧ (addr < p.base ∨ p.base + 256 ≤ addr → p.windowOffset addr = none)

/-! ## Reset -/

/-- R162, R190: SRESET gives every register its reset value, and keeps the parameters. That the host's own
lists stay is DEDUCED, assumption 8. -/
def Obligations.SresetResetsEveryRegister : Prop :=
  ∀ s : State, ∃ t, exec .sreset s = .next t
    ∧ (∀ off : BitVec 8, t.readReg off = if off = 0x00 then 0x3144534D else 0)
    ∧ t.seq = 0 ∧ t.ttList = [] ∧ t.params = s.params
    ∧ t.pending = s.pending ∧ t.readLog = s.readLog

/-- R190: after power-up, after the platform's reset input and after SRESET, ID reads 0x3144534D, every other
offset reads 0, SEQ is 0 and TT_LIST is empty; neither the reset input nor SRESET changes the parameters. -/
def Obligations.ResetStateHoldsAfterEveryReset : Prop :=
  let isReset (t : State) : Prop :=
    (∀ off : BitVec 8, t.readReg off = if off = 0x00 then 0x3144534D else 0)
      ∧ t.seq = 0 ∧ t.ttList = []
  isReset State.reset
    ∧ (∀ (s : State) (rest : List HostEvent), s.pending = .reset :: rest →
        ∃ t, step s = .next t ∧ isReset t ∧ t.params = s.params)
    ∧ ∀ s : State, ∃ t, exec .sreset s = .next t ∧ isReset t ∧ t.params = s.params

/-! ## Invariants and rules of the whole machine -/

/-- R192: the reset state has the register invariant `State.Consistent`. -/
def Obligations.ResetIsConsistent : Prop := State.reset.Consistent

/-- R26, R41, R170 and the other rules named at `State.Consistent`: every step keeps the register invariant
`State.Consistent`: the STATUS fields agree with each other, SEQ is 0 while unbuilt, the DECODE result
registers are 0 while DEC_VALID is 0 and else those of the FIELD registers, each FIELD register fits its
width, TT_COUNT is the length of TT_LIST and TT_CODE is 0 or one of its entries. -/
def Obligations.StepKeepsConsistency : Prop :=
  ∀ s t : State, s.Consistent → step s = .next t → t.Consistent

/-- R24, R34, R37 to R42: in every consistent state the reserved bits of the registers read 0. -/
def Obligations.ReservedBitsReadZero : Prop :=
  ∀ s : State, s.Consistent →
    s.readReg 0x08 &&& 0xFFFC0000 = 0 ∧ s.readReg 0x20 &&& 0xFF000000 = 0
      ∧ s.readReg 0x80 &&& 0xFF000000 = 0 ∧ s.readReg 0x84 &&& 0xFF000000 = 0
      ∧ s.readReg 0x88 &&& 0xFFFF0000 = 0 ∧ s.readReg 0x90 &&& 0xFFFF0000 = 0
      ∧ s.readReg 0x94 &&& 0x7E000000 = 0

/-- R26, R40: in a consistent state with DEC_VALID = 1 EXPIRY holds a day from 1 on in [4:0] and a month 1..12
in [11:8], and bits [7:5] and [15:12] read 0; with DEC_VALID = 0 EXPIRY is 0. -/
def Obligations.ExpiryHoldsADate : Prop :=
  ∀ s : State, s.Consistent →
    (if s.status.decValid then
      1 ≤ s.expiry.toNat % 32 ∧ 1 ≤ s.expiry.toNat / 256 % 16 ∧ s.expiry.toNat / 256 % 16 ≤ 12
        ∧ s.expiry &&& 0x0000F0E0 = 0
    else s.expiry = 0)

/-- R7, R44, R50, R190: no step, be it a command, a bus access or a reset, changes the parameters REF_INDEX,
EPOCH_DATE and BASE. That they stand in State.params is a DESIGN CHOICE, assumption 1. -/
def Obligations.NothingWritesTheParameters : Prop :=
  ∀ s t : State, step s = .next t → t.params = s.params

/-- R26, R33, R35, R43, R148: SRESET apart, no command writes RECORD; only BUILD and DECODE write SEQ and
SEQ_VALID; only DECODE writes DEC_VALID, WARN, FIELD[k], ORIG_CODE, DEST_CODE, LTOT_CODE, EXPIRY, TT_COUNT and
TT_LIST; only DECODE and TTSEL write TT_CODE; and only SLICE, XLOC, XLTOT and XDATE write RESULT. -/
def Obligations.RegistersAreWrittenOnlyByTheirCommands : Prop :=
  ∀ (i : Instr) (s t : State), exec i s = .next t → i ≠ .sreset →
    (t.rec0 = s.rec0 ∧ t.rec1 = s.rec1 ∧ t.rec2 = s.rec2 ∧ t.rec3 = s.rec3 ∧ t.rec4 = s.rec4)
      ∧ (i ≠ .build → i ≠ .decode → t.seq = s.seq ∧ t.status.seqValid = s.status.seqValid)
      ∧ (i ≠ .decode → t.status.decValid = s.status.decValid ∧ t.status.warn = s.status.warn
          ∧ t.fields = s.fields ∧ t.origCode = s.origCode ∧ t.destCode = s.destCode
          ∧ t.ltotCode = s.ltotCode ∧ t.expiry = s.expiry ∧ t.ttCount = s.ttCount
          ∧ t.ttList = s.ttList)
      ∧ (i ≠ .decode → (∀ k, i ≠ .ttsel k) → t.ttCode = s.ttCode)
      ∧ ((∀ a b, i ≠ .slice a b) → (∀ a, i ≠ .xloc a) → (∀ a, i ≠ .xltot a) → (∀ a, i ≠ .xdate a) →
          t.result = s.result)

/-- R28: a command that raises an error sets STICKY_ERR, and no step clears it but the reset input and a CMD
write of CLRERR or SRESET. -/
def Obligations.StickyErrorIsKeptUntilCleared : Prop :=
  (∀ (w : Word) (s t : State), runCommand w s = .next t →
      t.status.errCode ≠ 0 → t.status.stickyErr = true)
    ∧ (∀ s t : State, step s = .next t → s.status.stickyErr = true → t.status.stickyErr = false →
        s.pending.head? = some .reset ∨ s.pending.head? = some (.write 4 0x04 0x00000008)
          ∨ s.pending.head? = some (.write 4 0x04 0x00000009))
    ∧ (∀ s t : State, exec .clrerr s = .next t ∨ exec .sreset s = .next t → t.status.stickyErr = false)

/-- R25: SEQ_VALID becomes 1 at a CMD write of BUILD or DECODE, 0 at the reset input and SRESET, and every
other step, a REC write among them, keeps it; it is 0 at reset. -/
def Obligations.SeqValidTellsThatASequenceWasBuilt : Prop :=
  State.reset.status.seqValid = false
    ∧ ∀ s t : State, step s = .next t →
      let head := s.pending.head?
      let builds : Prop := head = some (.write 4 0x04 0x00000001) ∨ head = some (.write 4 0x04 0x00000003)
      let resets : Prop := head = some .reset ∨ head = some (.write 4 0x04 0x00000009)
      (builds → t.status.seqValid = true) ∧ (resets → t.status.seqValid = false)
        ∧ (¬ builds → ¬ resets → t.status.seqValid = s.status.seqValid)

/-- R26: DECODE sets DEC_VALID to 1 when it raises no error and to 0 when it raises one; SRESET and the reset
input clear it and no other step changes it; in a consistent state with DEC_VALID 0 every DECODE result
register reads 0. -/
def Obligations.DecValidTellsTheLastDecode : Prop :=
  (∀ s t : State, exec .decode s = .next t → (t.status.decValid = true ↔ t.status.errCode = 0))
    ∧ (∀ s t : State, step s = .next t →
        let head := s.pending.head?
        let resets : Prop := head = some .reset ∨ head = some (.write 4 0x04 0x00000009)
        (resets → t.status.decValid = false)
          ∧ (head ≠ some (.write 4 0x04 0x00000003) → ¬ resets →
              t.status.decValid = s.status.decValid))
    ∧ ∀ s : State, s.Consistent → s.status.decValid = false →
        ∀ off : BitVec 8, 0x40 ≤ off.toNat → off.toNat ≤ 0x94 → s.readReg off = 0

/-- R24, R27: every DECODE writes WARN, STATUS bit 2, with 1 exactly when it succeeded and some resolved code
has no entry in ticketTypeToName; SRESET and the reset input clear it. -/
def Obligations.WarnTellsThatANameIsMissing : Prop :=
  (∀ s t : State, exec .decode s = .next t →
      t.status.word.getLsbD 2 = t.status.warn
        ∧ (t.status.warn = true ↔ t.status.errCode = 0
          ∧ ∃ e ∈ t.ttList, s.params.refIndex.ticketTypeToName.lookup e.code = none))
    ∧ (∀ s t : State, exec .sreset s = .next t →
        t.status.word.getLsbD 2 = false ∧ t.status.warn = false)
    ∧ ∀ s t : State, step s = .next t → s.pending.head? = some .reset →
        t.status.word.getLsbD 2 = false ∧ t.status.warn = false

/-- R35: only BUILD and DECODE write SEQ, each with `build` of the record; reset and SRESET clear it; every
other command and a rejected word leave it; no register reads it; and what a command other than SLICE does to
anything but SEQ does not depend on it (DECODE shows the SEQ that it has built). -/
def Obligations.SeqIsWrittenByBuildAndDecodeAlone : Prop :=
  State.reset.seq = 0
    ∧ (∀ (w : Word) (s t : State), runCommand w s = .next t →
        t.seq = if w = 0x00000001 ∨ w = 0x00000003 then buildSeq s.recByte
          else if w = 0x00000009 then 0 else s.seq)
    ∧ (∀ s t : State, step s = .next t → (∀ w rest, s.pending ≠ .write 4 0x04 w :: rest) →
        t.seq = if s.pending.head? = some .reset then 0 else s.seq)
    ∧ (∀ (s : State) (q : Seq) (a : BitVec 8), State.readReg { s with seq := q } a = s.readReg a)
    ∧ ∀ (i : Instr) (s t : State) (q : Seq), (∀ start len, i ≠ .slice start len) → exec i s = .next t →
        ∃ t', exec i { s with seq := q } = .next t' ∧ { t' with seq := t.seq } = t

/-- R59: running the same command word twice leaves the state that running it once leaves. The spec itself
derives this from the command rules. -/
def Obligations.CommandsAreIdempotent : Prop :=
  ∀ (w : Word) (s t : State), runCommand w s = .next t → runCommand w t = .next t

/-- R141, R59: what a DECODE leaves in SEQ, its result registers and the STATUS bits but STICKY_ERR depends on
RECORD and the parameters alone. -/
def Obligations.DecodeDependsOnlyOnTheRecord : Prop :=
  ∀ s s' t t' : State, exec .decode s = .next t → exec .decode s' = .next t' →
    (∀ j < 5, s.recWord j = s'.recWord j) → s.params = s'.params →
      t.seq = t'.seq ∧ t.fields = t'.fields ∧ t.ttList = t'.ttList
        ∧ (∀ off : BitVec 8, 0x40 ≤ off.toNat → off.toNat ≤ 0x94 → t.readReg off = t'.readReg off)
        ∧ t.status.word &&& 0xFFFFFFF7 = t'.status.word &&& 0xFFFFFFF7

/-! ## Control commands and BUILD -/

/-- R160: NOP clears ERRCODE, ERRFIELD and ERRSUB and changes nothing else. -/
def Obligations.NopClearsTheErrorFields : Prop :=
  ∀ s : State, ∃ t, exec .nop s = .next t
    ∧ t.status.word = s.status.word &&& 0x0000000F
    ∧ t = { s with status := t.status }

/-- R161: CLRERR clears STICKY_ERR and the three error fields and changes nothing else. -/
def Obligations.ClrerrClearsTheStickyError : Prop :=
  ∀ s : State, ∃ t, exec .clrerr s = .next t
    ∧ t.status.word = s.status.word &&& 0x00000007
    ∧ t = { s with status := t.status }

/-- R91, R93: BUILD sets sequence bit 8i + k to bit k of record byte i, sets SEQ_VALID, clears the error
fields and changes nothing else. -/
def Obligations.BuildReordersTheRecord : Prop :=
  ∀ s : State, ∃ t, exec .build s = .next t
    ∧ (∀ i < 19, ∀ k < 8, t.seq.getLsbD (151 - (8 * i + k)) = (s.recByte i).getLsbD k)
    ∧ t.status.word = (s.status.word &&& 0x0000000E) ||| 0x00000001
    ∧ t = { s with seq := t.seq, status := t.status }

/-- R90, R94: `reverse8` reverses a byte's bits and is an involution, with the source's two examples;
`reverse8` of every byte of `build`'s output gives the record back, and `build` is injective. The last two
clauses are consequences that the spec itself derives. -/
def Obligations.ReversalAndBuildAreInvertible : Prop :=
  (∀ (b : Byte), ∀ j < 8, (reverse8 b).getLsbD j = b.getLsbD (7 - j))
    ∧ reverse8 0x81 = 0x81 ∧ reverse8 0x01 = 0x80 ∧ (∀ b : Byte, reverse8 (reverse8 b) = b)
    ∧ (∀ (rec : Nat → Byte), ∀ i < 19,
      reverse8 ((buildSeq rec).extractLsb' (144 - 8 * i) 8) = rec i)
    ∧ ∀ (rec rec' : Nat → Byte), buildSeq rec = buildSeq rec' → ∀ i < 19, rec i = rec' i

/-! ## SLICE and the extractor -/

/-- R103, R107: after a BUILD or DECODE, SLICE of a field in range writes the barrel-shift form of its value
to RESULT, clears the error fields and changes nothing else. -/
def Obligations.SliceShiftsTheSequence : Prop :=
  ∀ (s : State) (start len : Nat),
    s.status.seqValid = true → len ≤ 32 → 24 ≤ start → start + len ≤ 176 →
      ∃ t, exec (.slice start len) s = .next t
        ∧ t.result = BitVec.ofNat 32 (s.seq.toNat / 2 ^ (start - 24) % 2 ^ len)
        ∧ t.status.word = s.status.word &&& 0x0000000F
        ∧ t = { s with result := t.result, status := t.status }

/-- R107, R176, R174: SLICE checks NO_SEQUENCE, then OPERAND_RANGE, then FIELD_RANGE; on any of them RESULT
is 0, the error is recorded and nothing else changes. -/
def Obligations.SliceErrorsInOrder : Prop :=
  ∀ (s : State) (start len : Nat),
    s.status.seqValid = false ∨ 32 < len ∨ start < 24 ∨ 176 < start + len →
      ∃ t, exec (.slice start len) s = .next t
        ∧ t.result = 0
        ∧ t.status.word = ((s.status.word &&& 0x00000007) ||| 0x0000FF08)
            ||| (if s.status.seqValid = false then 0x40 else if 32 < len then 0x50 else 0x10)
        ∧ t = { s with result := t.result, status := t.status }

/-- R108: a sequence whose only set bits are a value's bits in a field's place extracts to that value. -/
def Obligations.ExtractReturnsTheFieldsValue : Prop :=
  ∀ (seq : Seq) (start len v : Nat), 24 ≤ start → start + len ≤ 176 → v < 2 ^ len →
    (∀ p < 152, seq.getMsbD p
      = (decide (176 - start - len ≤ p) && decide (p < 176 - start)
          && v.testBit (len - 1 - (p - (176 - start - len))))) →
    Slicer.extract 24 seq ⟨start, len⟩ = some v

/-- R109, R104: an extracted value is below 2 ^ length, so a 32-bit register holds it for a length up to 32,
and it depends only on the bits inside the field's range; a field out of range has none. The spec itself
derives this from R102. -/
def Obligations.ExtractReadsOnlyItsRange : Prop :=
  ∀ (seq seq' : Seq) (start len : Nat),
    (24 ≤ start → start + len ≤ 176 →
        (∀ p, 176 - start - len ≤ p → p < 176 - start → seq.getMsbD p = seq'.getMsbD p) →
          Slicer.extract 24 seq ⟨start, len⟩ = Slicer.extract 24 seq' ⟨start, len⟩
            ∧ ∃ v, Slicer.extract 24 seq ⟨start, len⟩ = some v ∧ v < 2 ^ len
              ∧ (len ≤ 32 → (BitVec.ofNat 32 v).toNat = v))
      ∧ (start < 24 ∨ 176 < start + len → Slicer.extract 24 seq ⟨start, len⟩ = none)

/-! ## The look-up commands -/

/-- R120, R129: XLOC of an index below 32 writes the ASCII code of its alphabet character to RESULT, clears
the error fields and changes nothing else. The ASCII codes are PRESUMED by the spec itself, PRESUMED, assumption 14. -/
def Obligations.XlocLooksUpThePrefix : Prop :=
  ∀ (s : State) (idx : Nat), idx < 32 →
    ∃ t, exec (.xloc idx) s = .next t
      ∧ t.result = BitVec.ofNat 32 (locationAscii idx)
      ∧ t.status.word = s.status.word &&& 0x0000000F
      ∧ t = { s with result := t.result, status := t.status }

/-- R129, R174: XLOC of an index from 32 on raises ALPHABET_RANGE: RESULT 0, ERRCODE 2, ERRFIELD 0xFF,
ERRSUB 0, STICKY_ERR 1, nothing else changed. -/
def Obligations.XlocRejectsLargeIndexes : Prop :=
  ∀ (s : State) (idx : Nat), 32 ≤ idx →
    ∃ t, exec (.xloc idx) s = .next t
      ∧ t.result = 0
      ∧ t.status.word = (s.status.word &&& 0x00000007) ||| 0x0000FF28
      ∧ t = { s with result := t.result, status := t.status }

/-- R123, R130: XLTOT of a value whose halves are both at most 25 writes the high half's letter to RESULT[7:0]
and the low half's to RESULT[15:8], clears the error fields and changes nothing else. The ASCII codes are
PRESUMED by the spec itself, PRESUMED, assumption 14. -/
def Obligations.XltotLooksUpTheLetters : Prop :=
  ∀ (s : State) (raw : Nat), raw / 32 ≤ 25 → raw % 32 ≤ 25 →
    ∃ t, exec (.xltot raw) s = .next t
      ∧ t.result = BitVec.ofNat 32 (0x41 + raw / 32 + 256 * (0x41 + raw % 32))
      ∧ t.status.word = s.status.word &&& 0x0000000F
      ∧ t = { s with result := t.result, status := t.status }

/-- R123, R130, R31: XLTOT with a half above 25 raises ALPHABET_RANGE with ERRSUB[0] for the high half and
ERRSUB[1] for the low; RESULT 0, nothing else changed. -/
def Obligations.XltotRejectsLargeHalves : Prop :=
  ∀ (s : State) (raw : Nat), 25 < raw / 32 ∨ 25 < raw % 32 →
    ∃ t, exec (.xltot raw) s = .next t
      ∧ t.result = 0
      ∧ t.status.word = ((s.status.word &&& 0x00000007) ||| 0x0000FF28)
          ||| (if 25 < raw / 32 then 0x00010000 else 0) ||| (if 25 < raw % 32 then 0x00020000 else 0)
      ∧ t = { s with result := t.result, status := t.status }

/-- R126, R128, R131: XDATE writes the date OFF days after the epoch to RESULT, the year in [31:16], the month
in [11:8], the day in [4:0] and 0 in [15:12] and [7:5], clears the error fields and changes nothing else. The
calendar is PRESUMED by the spec itself, PRESUMED, assumption 14. -/
def Obligations.XdateLooksUpTheDate : Prop :=
  ∀ (s : State) (off : Nat), off < 512 →
    ∃ t, exec (.xdate off) s = .next t
      ∧ t.result.toNat / 65536 = (Calendar.addDays s.params.epoch.date off).year
      ∧ t.result.toNat / 256 % 256 = (Calendar.addDays s.params.epoch.date off).month
      ∧ t.result.toNat % 256 = (Calendar.addDays s.params.epoch.date off).day
      ∧ t.result.toNat / 256 % 256 ≤ 12 ∧ t.result.toNat % 256 ≤ 31
      ∧ t.status.word = s.status.word &&& 0x0000000F
      ∧ t = { s with result := t.result, status := t.status }

/-- R125, R126, R127: the dates of the calendar are those of R125's month table; adding days to one of them
gives the one whose day number, counted from that table, is that many greater. The calendar is PRESUMED by the
spec itself, PRESUMED, assumption 14. -/
def Obligations.AddDaysCountsGregorianDays : Prop :=
  (∀ t : Date, Calendar.validDate t = true ↔ IsDate t)
    ∧ ∀ (t : Date) (off : Nat), IsDate t → 1 ≤ t.year →
        IsDate (Calendar.addDays t off) ∧ dayNumber (Calendar.addDays t off) = dayNumber t + off

/-- R132: 365 days after a date is the same day one year later exactly when no 29 February lies in between,
and one day earlier otherwise. The date itself is not a 29 February (DEDUCED, assumption 16). -/
def Obligations.YearLaterUnlessALeapDayBetween : Prop :=
  ∀ t : Date, Calendar.validDate t = true → 1 ≤ t.year → leapDay t = false →
    ((∀ n, 1 ≤ n → n ≤ 365 → leapDay (Calendar.addDays t n) = false) →
        Calendar.addDays t 365 = ⟨t.year + 1, t.month, t.day⟩)
      ∧ ((∃ n, 1 ≤ n ∧ n ≤ 365 ∧ leapDay (Calendar.addDays t n) = true) →
        Calendar.nextDay (Calendar.addDays t 365) = ⟨t.year + 1, t.month, t.day⟩)

/-! ## DECODE and TTSEL -/

/-- R36, R101, R140, R141: a DECODE whose LTOT halves are at most 25 rebuilds SEQ and sets FIELD[k] to the
bits of the view S that the field table names, for each k; it sets SEQ_VALID and DEC_VALID, clears the error
fields, keeps STICKY_ERR, and leaves RECORD, RESULT, the parameters and the host's lists as they were. -/
def Obligations.DecodeReportsTheFields : Prop :=
  ∀ s : State,
    (let v := fieldValue (buildSeq s.recByte)
     v 5 / 32 ≤ 25 → v 5 % 32 ≤ 25 →
      ∃ t, exec .decode s = .next t
        ∧ t.seq = buildSeq s.recByte
        ∧ (∀ k : Fin 11, t.readReg (BitVec.ofNat 8 (0x40 + 4 * k.val)) = BitVec.ofNat 32 (v k))
        ∧ t.status.word &&& 0xFFFFFFFB = (s.status.word &&& 0x00000008) ||| 0x00000003
        ∧ t = { s with
            status := t.status, seq := t.seq, fields := t.fields, origCode := t.origCode
            destCode := t.destCode, ltotCode := t.ltotCode, expiry := t.expiry, ttCount := t.ttCount
            ttCode := t.ttCode, ttList := t.ttList })

/-- R37 to R40, R122, R123: a DECODE whose LTOT halves are at most 25 sets ORIG_CODE, DEST_CODE and LTOT_CODE
to the suffixes, prefix characters and letters of the fields, and EXPIRY to the date FIELD[10] days after the
epoch. The ASCII codes and the calendar are PRESUMED by the spec itself, PRESUMED, assumption 14. -/
def Obligations.DecodeReportsTheCodes : Prop :=
  ∀ s : State,
    (let v := fieldValue (buildSeq s.recByte)
     v 5 / 32 ≤ 25 → v 5 % 32 ≤ 25 →
      ∃ t, exec .decode s = .next t
        ∧ t.origCode = BitVec.ofNat 32 (v 1 + 65536 * locationAscii (v 0))
        ∧ t.destCode = BitVec.ofNat 32 (v 3 + 65536 * locationAscii (v 2))
        ∧ t.ltotCode = BitVec.ofNat 32 (0x41 + v 5 / 32 + 256 * (0x41 + v 5 % 32))
        ∧ t.expiry.toNat / 65536 = (Calendar.addDays s.params.epoch.date (v 10)).year
        ∧ t.expiry.toNat / 256 % 256 = (Calendar.addDays s.params.epoch.date (v 10)).month
        ∧ t.expiry.toNat % 256 = (Calendar.addDays s.params.epoch.date (v 10)).day)

/-- R27, R41, R42, R140, R145, R146, R147: a DECODE whose LTOT halves are at most 25 sets TT_LIST to the codes
REF_INDEX gives the two letters, in order and with duplicates, each with whether it has a name, none for an
absent key; TT_COUNT to their number; TT_CODE to 0; and WARN, STATUS bit 2, to whether one has no name.
REF_INDEX as a list whose first pair with a key counts is a DESIGN CHOICE, assumption 11; the ASCII codes of
the key are PRESUMED by the spec itself, PRESUMED, assumption 14. -/
def Obligations.DecodeResolvesTheTickets : Prop :=
  ∀ s : State,
    (let v := fieldValue (buildSeq s.recByte)
     let key : LtotKey := ⟨BitVec.ofNat 8 (0x41 + v 5 / 32), BitVec.ofNat 8 (0x41 + v 5 % 32)⟩
     v 5 / 32 ≤ 25 → v 5 % 32 ≤ 25 →
      ∃ t, exec .decode s = .next t
        ∧ t.ttList.map TicketEntry.code = (s.params.refIndex.ltotToTicketTypes.lookup key).getD []
        ∧ (∀ e ∈ t.ttList, (e.known = true ↔ ∃ n, (e.code, n) ∈ s.params.refIndex.ticketTypeToName))
        ∧ t.ttCount.toNat = t.ttList.length
        ∧ t.ttCode = 0
        ∧ (t.status.warn = true ↔ ∃ e ∈ t.ttList, e.known = false)
        ∧ t.status.word.getLsbD 2 = t.status.warn)

/-- R140, R143, R174: a DECODE with an LTOT half above 25 raises ALPHABET_RANGE on field 5 with the halves in
ERRSUB, sets every DECODE result register to 0, empties TT_LIST, clears DEC_VALID and WARN, leaves SEQ rebuilt
with SEQ_VALID 1, and changes nothing else; and every DECODE that raises an error, whichever it is, leaves
those registers so. The zeros are the spec's own choice (92_eei_decisions.md D14). -/
def Obligations.DecodeFailureZeroesTheResults : Prop :=
  ∀ s : State,
    (let v := fieldValue (buildSeq s.recByte)
     25 < v 5 / 32 ∨ 25 < v 5 % 32 →
      ∃ t, exec .decode s = .next t
        ∧ t.seq = buildSeq s.recByte
        ∧ (∀ off : BitVec 8, 0x40 ≤ off.toNat → off.toNat ≤ 0x94 → t.readReg off = 0)
        ∧ t.ttList = []
        ∧ t.status.word = 0x00000529 ||| (if 25 < v 5 / 32 then 0x00010000 else 0)
            ||| (if 25 < v 5 % 32 then 0x00020000 else 0)
        ∧ t = { s with
            status := t.status, seq := t.seq, fields := t.fields, origCode := t.origCode
            destCode := t.destCode, ltotCode := t.ltotCode, expiry := t.expiry, ttCount := t.ttCount
            ttCode := t.ttCode, ttList := t.ttList })
      ∧ ∀ t : State, exec .decode s = .next t → t.status.errCode ≠ 0 →
          (∀ off : BitVec 8, 0x40 ≤ off.toNat → off.toNat ≤ 0x94 → t.readReg off = 0)
            ∧ t.ttList = [] ∧ t.status.decValid = false ∧ t.status.warn = false

/-- R140, R142, R176: over any layout DECODE reports FIELD_RANGE for the lowest row that fails the range
check; with every row in range it reports a prefix of 32 or more, row 0 before row 2, and then the LTOT halves
above 25. The order is the spec's own choice (92_eei_decisions.md D16); other layouts than the default are the
model's generality (DESIGN CHOICE, assumption 3). -/
def Obligations.DecodeChecksTheLayoutInOrder : Prop :=
  ∀ (l : Layout) (p : Params) (seq : Seq),
    let fits (k : Fin 11) : Prop :=
      l.headerAdj ≤ (l.table.get k).start
        ∧ (l.table.get k).start + (l.table.get k).length ≤ 152 + l.headerAdj
    let value (k : Fin 11) : Nat :=
      seq.toNat / 2 ^ ((l.table.get k).start - l.headerAdj) % 2 ^ (l.table.get k).length
    (∀ k : Fin 11, ¬ fits k → (∀ j < k, fits j) →
        decodeSeq l p seq = .error ⟨.fieldRange, BitVec.ofNat 8 k.val, 0⟩)
      ∧ ((∀ k, fits k) → 32 ≤ value 0 → decodeSeq l p seq = .error ⟨.alphabetRange, 0, 0⟩)
      ∧ ((∀ k, fits k) → value 0 < 32 → 32 ≤ value 2 →
          decodeSeq l p seq = .error ⟨.alphabetRange, 2, 0⟩)
      ∧ ((∀ k, fits k) → value 0 < 32 → value 2 < 32 → 25 < value 5 / 32 ∨ 25 < value 5 % 32 →
          decodeSeq l p seq = .error ⟨.alphabetRange, 5,
            (if 25 < value 5 / 32 then 1 else 0) ||| (if 25 < value 5 % 32 then 2 else 0)⟩)

/-- R148, R42: TTSEL of an index below TT_COUNT shows that entry of TT_LIST in TT_CODE, its characters, KNOWN
and SEL_VALID, clears the error fields and changes nothing else. -/
def Obligations.TtselShowsTheEntry : Prop :=
  ∀ (s : State) (k : Nat) (e : TicketEntry), k < s.ttCount.toNat → s.ttList[k]? = some e →
    ∃ t, exec (.ttsel k) s = .next t
      ∧ t.ttCode.toNat = e.code.char0.toNat + 256 * e.code.char1.toNat + 65536 * e.code.char2.toNat
          + 16777216 * e.known.toNat + 2147483648
      ∧ t.status.word = s.status.word &&& 0x0000000F
      ∧ t = { s with ttCode := t.ttCode, status := t.status }

/-- R148, R174: TTSEL of an index from TT_COUNT on raises OPERAND_RANGE; TT_CODE and everything else but
STATUS stays. -/
def Obligations.TtselRejectsLargeIndexes : Prop :=
  ∀ (s : State) (k : Nat), s.ttCount.toNat ≤ k →
    ∃ t, exec (.ttsel k) s = .next t
      ∧ t.status.word = (s.status.word &&& 0x00000007) ||| 0x0000FF58
      ∧ t = { s with status := t.status }

/-- R42, R41: in a consistent state TTSEL of every index below TT_COUNT succeeds with SEL_VALID 1. -/
def Obligations.TtselReachesEveryEntry : Prop :=
  ∀ (s : State) (k : Nat), s.Consistent → k < s.ttCount.toNat →
    ∃ t e, exec (.ttsel k) s = .next t ∧ s.ttList[k]? = some e ∧ t.ttCode = packTicket e
      ∧ t.ttCode.getLsbD 31 = true ∧ t.status.errCode = 0

/-! ## Staleness, the host's side and the reference index -/

/-- R200, R201: a REC write leaves SEQ and every DECODE result as they were, so a SLICE right after it answers
what it would have answered before. SliceSeesTheOldSequenceUntilARebuild says the same of a later SLICE. -/
def Obligations.SliceSeesTheOldRecord : Prop :=
  ∀ (s : State) (off : BitVec 8) (v w : Word) (start len : Nat),
    s.pending = [.write 4 off v, .write 4 0x04 w] →
      off ∈ ([0x10, 0x14, 0x18, 0x1C, 0x20] : List (BitVec 8)) → decode w = .ok (.slice start len) →
      ∃ t t', Host.Core.run core 2 s = .next t ∧ exec (.slice start len) s = .next t'
        ∧ t.result = t'.result ∧ t.status = t'.status ∧ t.seq = s.seq
        ∧ (∀ a : BitVec 8, 0x40 ≤ a.toNat → a.toNat ≤ 0x94 → t.readReg a = s.readReg a)

/-- R25, R200: after a REC write, and after any accesses that run no BUILD, DECODE or SRESET and do not reset,
a SLICE answers from the sequence of before: its RESULT, ERRCODE, ERRFIELD and ERRSUB are those that a SLICE
before the write would have left, and SEQ and SEQ_VALID are as they were. The list of issued accesses is the
model's own (DESIGN CHOICE, assumption 4). -/
def Obligations.SliceSeesTheOldSequenceUntilARebuild : Prop :=
  ∀ (s : State) (off : BitVec 8) (v w : Word) (start len : Nat) (between : List HostEvent),
    s.pending = .write 4 off v :: (between ++ [.write 4 0x04 w]) →
      off ∈ ([0x10, 0x14, 0x18, 0x1C, 0x20] : List (BitVec 8)) →
      (∀ e ∈ between, e.keepsSequence = true) → decode w = .ok (.slice start len) →
      ∃ t t', Host.Core.run core (between.length + 2) s = .next t ∧ exec (.slice start len) s = .next t'
        ∧ t.result = t'.result ∧ t.status.errCode = t'.status.errCode
        ∧ t.status.errField = t'.status.errField ∧ t.status.errSub = t'.status.errSub
        ∧ t.seq = s.seq ∧ t.status.seqValid = s.status.seqValid

/-- R79, R196: LOADREC of 38 hex digits expands to accesses that, served, leave in record byte i the byte that
digits 2i and 2i + 1 spell, the first the high nibble, a digit's value being its place among the hex digits.
The digit order is PRESUMED by the spec itself, PRESUMED, assumption 14; LOADREC beside the machine is a DESIGN CHOICE,
DESIGN CHOICE, assumption 15, and so are the small letters, DESIGN CHOICE, assumption 21. -/
def Obligations.LoadrecLoadsTheHexText : Prop :=
  ∀ (s : State) (digits : List Char) (events : List HostEvent),
    loadRec digits = some events → s.pending = events →
      ∃ t, Host.Core.run core 5 s = .next t ∧ t.pending = [] ∧ t.seq = s.seq ∧ t.status = s.status
        ∧ ∀ i < 19, ∃ (hi lo : Char) (h l : Nat),
            digits[2 * i]? = some hi ∧ digits[2 * i + 1]? = some lo
              ∧ SpellsDigit hi h ∧ SpellsDigit lo l ∧ (t.recByte i).toNat = 16 * h + l

/-- R79, R196: LOADREC expands a text of 38 hex digits and refuses every other: one of another length, and one
with a character that is no hex digit. That small letters are hex digits is a DESIGN CHOICE, assumption 21,
and LOADREC beside the machine another, DESIGN CHOICE, assumption 15. -/
def Obligations.LoadrecTakesExactly38HexDigits : Prop :=
  ∀ digits : List Char,
    ((∃ events, loadRec digits = some events)
        ↔ digits.length = 38 ∧ ∀ c ∈ digits, ∃ h, SpellsDigit c h)
      ∧ (loadRec digits = none ↔ digits.length ≠ 38 ∨ ∃ c ∈ digits, ∀ h, ¬ SpellsDigit c h)

/-- R149: REF_INDEX built from a file maps a key to the codes of the lines with that key, comment lines left
out, in file order and with duplicates, the code at characters [1,4) and the key at [99,101); it maps a code
to the name of the document's last entry for it. A file whose lines have their key builds an index, within the
bound of R150; a line too short is refused. The index as lists is a DESIGN CHOICE, assumption 11, and so are
the loader beside the machine and the short line, DESIGN CHOICE, assumption 15, and bytes outside ASCII, DESIGN CHOICE, assumption 20. -/
def Obligations.ReferenceIndexKeepsFileOrder : Prop :=
  ∀ (lines : List (List Byte)) (entries : List (TicketCode × String)),
    let records := lines.filter fun x => x.head? ≠ some 0x2F
    (∀ r : RefIndex, RefIndex.ofReference lines entries = some r →
        (∀ key : LtotKey, r.lookupTypes key = (records.filter (lineHasKey key)).filterMap lineCode)
          ∧ (∀ c : TicketCode, r.known c = true ↔ ∃ n, (c, n) ∈ entries)
          ∧ ∀ (c : TicketCode) (n : String), r.ticketTypeToName.lookup c = some n
              ↔ ∃ before later, entries = before ++ (c, n) :: later ∧ ∀ m, (c, m) ∉ later)
      ∧ ((∀ x ∈ records, 101 ≤ x.length) → records.length ≤ 65535 →
          ∃ r, RefIndex.ofReference lines entries = some r)
      ∧ ((∃ x ∈ records, x.length < 101) → RefIndex.ofReference lines entries = none)
end

