-- ==== Sys2Proof/Laws/Alphabet.lean ====
section
/-! SUPPORT. The alphabets in numbers: which indexes have a character and which (42_domain_luts.md R120,
R123, R124). -/

namespace Sys2Proof.Alphabet

open Sys2Proof.Machine

theorem locChar_of_lt (i : Nat) (h : i < 32) :
    locChar i = some (BitVec.ofNat 8 (locationAscii i)) := by
  interval_cases i <;> rfl

theorem locChar_of_ge (i : Nat) (h : 32 ≤ i) : locChar i = none := by
  rw [locChar, List.getElem?_eq_none (by simpa [alpha32] using h)]
  rfl

theorem letter_of_le (i : Nat) (h : i ≤ 25) : letter i = some (BitVec.ofNat 8 (0x41 + i)) := by
  interval_cases i <;> rfl

theorem letter_of_gt (i : Nat) (h : 25 < i) : letter i = none := by
  rw [letter, List.getElem?_eq_none (by simp [alpha26]; omega)]
  rfl

/-- Both halves at most 25: the two letters, the high half's first. -/
theorem ltotChars_of_le (raw : Nat) (hi : raw / 32 ≤ 25) (lo : raw % 32 ≤ 25) :
    ltotChars raw
      = .ok (BitVec.ofNat 8 (0x41 + raw / 32), BitVec.ofNat 8 (0x41 + raw % 32)) := by
  rw [ltotChars, letter_of_le _ hi, letter_of_le _ lo]

/-- A half above 25: the error names the halves. -/
theorem ltotChars_of_gt (raw : Nat) (h : 25 < raw / 32 ∨ 25 < raw % 32) :
    ltotChars raw = .error (ltotSub raw) := by
  rw [ltotChars]
  rcases h with h | h
  · rw [letter_of_gt _ h]
  · rw [letter_of_gt _ h]
    cases letter (raw / 32) <;> rfl

end Sys2Proof.Alphabet
end

