-- ==== Sys2Proof/Laws/Calendar.lean ====
section
/-! SUPPORT. The calendar: a day added to a valid date is the next valid date (42_domain_luts.md R125,
R126). -/

namespace Sys2Proof.Calendar

open Sys2Proof.Machine

@[simp] theorem addDays_zero (t : Date) : addDays t 0 = t := rfl

theorem addDays_succ (t : Date) (n : Nat) : addDays t (n + 1) = nextDay (addDays t n) := rfl

theorem mdays_range (y m : Nat) : 28 ≤ mdays y m ∧ mdays y m ≤ 31 := by
  unfold mdays
  split <;> (try split) <;> omega

theorem validDate_iff (t : Date) : validDate t = true ↔
    1 ≤ t.month ∧ t.month ≤ 12 ∧ 1 ≤ t.day ∧ t.day ≤ mdays t.year t.month := by
  simp [validDate, and_assoc]

theorem validEpoch_iff (t : Date) : validEpoch t = true ↔
    validDate t = true ∧ 1 ≤ t.year ∧ t.year ≤ 9998 := by
  simp [validEpoch, and_assoc]

theorem nextDay_valid (t : Date) (h : validDate t = true) : validDate (nextDay t) = true := by
  rw [validDate_iff] at *
  unfold nextDay
  have h1 := mdays_range t.year (t.month + 1)
  have h2 := mdays_range (t.year + 1) 1
  split
  · exact ⟨h.1, h.2.1, by simp, by simp only; omega⟩
  · split
    · exact ⟨by simp, by simp only; omega, by simp, by simp only; omega⟩
    · exact ⟨by simp, by simp, by simp, by simp only; omega⟩

theorem addDays_valid (t : Date) (n : Nat) (h : validDate t = true) :
    validDate (addDays t n) = true := by
  induction n with
  | zero => exact h
  | succ n ih => exact nextDay_valid _ ih

/-- A day changes the year by at most one, upward. -/
theorem nextDay_year (t : Date) :
    (nextDay t).year = t.year ∨ (nextDay t).year = t.year + 1 := by
  unfold nextDay
  split
  · exact .inl rfl
  · split
    · exact .inl rfl
    · exact .inr rfl

theorem addDays_year (t : Date) (n : Nat) :
    t.year ≤ (addDays t n).year ∧ (addDays t n).year ≤ t.year + n := by
  induction n with
  | zero => simp
  | succ n ih =>
    rw [addDays_succ]
    rcases nextDay_year (addDays t n) with h | h <;> omega

/-- A packed date is its three numbers side by side. -/
theorem packDate_toNat (t : Date) (h : validDate t = true) (hy : t.year < 65536) :
    (packDate t).toNat = 65536 * t.year + 256 * t.month + t.day := by
  rw [validDate_iff] at h
  have := mdays_range t.year t.month
  obtain ⟨y, m, d⟩ := t
  simp only at *
  unfold packDate
  simp only [BitVec.toNat_or, BitVec.toNat_shiftLeft, BitVec.toNat_ofNat, Nat.shiftLeft_eq]
  rw [Nat.mod_eq_of_lt (a := y) (by omega), Nat.mod_eq_of_lt (a := m) (by omega),
    Nat.mod_eq_of_lt (a := d) (by omega), Nat.mod_eq_of_lt (by omega), Nat.mod_eq_of_lt (by omega)]
  have h1 : y * 2 ^ 16 ||| m * 2 ^ 8 = y * 2 ^ 16 + m * 2 ^ 8 := by
    rw [Nat.mul_comm, ← Nat.two_pow_add_eq_or_of_lt (by omega)]
  have h2 : (y * 2 ^ 16 + m * 2 ^ 8) ||| d = (y * 2 ^ 16 + m * 2 ^ 8) + d := by
    rw [show y * 2 ^ 16 + m * 2 ^ 8 = 2 ^ 8 * (y * 2 ^ 8 + m) by ring,
      ← Nat.two_pow_add_eq_or_of_lt (by omega)]
  rw [h1, h2]
  ring

/-- `mdays` is R125's month table. -/
theorem monthTable_mdays (y m : Nat) (h1 : 1 ≤ m) (h2 : m ≤ 12) :
    (monthTable y)[m - 1]? = some (mdays y m) := by
  interval_cases m <;> simp [monthTable, mdays, leap]

/-- A month later, the days before it are more by the month's length. -/
theorem daysBeforeMonth_succ (y m : Nat) (h1 : 1 ≤ m) (h2 : m ≤ 12) :
    daysBeforeMonth y (m + 1) = daysBeforeMonth y m + mdays y m := by
  obtain ⟨k, rfl⟩ : ∃ k, m = k + 1 := ⟨m - 1, by omega⟩
  have h := monthTable_mdays y (k + 1) h1 h2
  simp only [Nat.add_sub_cancel] at h
  simp only [daysBeforeMonth, Nat.add_sub_cancel, List.take_add_one, h, List.sum_append]
  rfl

/-- Every date of the date LUT is valid and its year fits 16 bits (R127, R128). -/
theorem lutDate_range (e : Epoch) (off : Nat) (h : off < 512) :
    validDate (addDays e.date off) = true ∧ (addDays e.date off).year < 65536 := by
  have hv := (validEpoch_iff _).1 e.valid
  have := addDays_year e.date off
  exact ⟨addDays_valid _ _ hv.1, by omega⟩

end Sys2Proof.Calendar
end

