-- ==== Sys2Proof/Laws/State.lean ====
section
/-! SUPPORT. What each state update leaves in each field: one lemma per field per update, so that no proof
unfolds a record update. -/

namespace Sys2Proof.Machine

@[simp] theorem State.setResult_status (s : State) (v : Word) :
    (s.setResult v).status = s.status := rfl
@[simp] theorem State.setResult_rec0 (s : State) (v : Word) :
    (s.setResult v).rec0 = s.rec0 := rfl
@[simp] theorem State.setResult_rec1 (s : State) (v : Word) :
    (s.setResult v).rec1 = s.rec1 := rfl
@[simp] theorem State.setResult_rec2 (s : State) (v : Word) :
    (s.setResult v).rec2 = s.rec2 := rfl
@[simp] theorem State.setResult_rec3 (s : State) (v : Word) :
    (s.setResult v).rec3 = s.rec3 := rfl
@[simp] theorem State.setResult_rec4 (s : State) (v : Word) :
    (s.setResult v).rec4 = s.rec4 := rfl
@[simp] theorem State.setResult_seq (s : State) (v : Word) :
    (s.setResult v).seq = s.seq := rfl
@[simp] theorem State.setResult_fields (s : State) (v : Word) :
    (s.setResult v).fields = s.fields := rfl
@[simp] theorem State.setResult_origCode (s : State) (v : Word) :
    (s.setResult v).origCode = s.origCode := rfl
@[simp] theorem State.setResult_destCode (s : State) (v : Word) :
    (s.setResult v).destCode = s.destCode := rfl
@[simp] theorem State.setResult_ltotCode (s : State) (v : Word) :
    (s.setResult v).ltotCode = s.ltotCode := rfl
@[simp] theorem State.setResult_expiry (s : State) (v : Word) :
    (s.setResult v).expiry = s.expiry := rfl
@[simp] theorem State.setResult_ttCount (s : State) (v : Word) :
    (s.setResult v).ttCount = s.ttCount := rfl
@[simp] theorem State.setResult_ttCode (s : State) (v : Word) :
    (s.setResult v).ttCode = s.ttCode := rfl
@[simp] theorem State.setResult_result (s : State) (v : Word) :
    (s.setResult v).result = v := rfl
@[simp] theorem State.setResult_ttList (s : State) (v : Word) :
    (s.setResult v).ttList = s.ttList := rfl
@[simp] theorem State.setResult_params (s : State) (v : Word) :
    (s.setResult v).params = s.params := rfl
@[simp] theorem State.setResult_pending (s : State) (v : Word) :
    (s.setResult v).pending = s.pending := rfl
@[simp] theorem State.setResult_readLog (s : State) (v : Word) :
    (s.setResult v).readLog = s.readLog := rfl

@[simp] theorem State.setTtCode_status (s : State) (v : Word) :
    (s.setTtCode v).status = s.status := rfl
@[simp] theorem State.setTtCode_rec0 (s : State) (v : Word) :
    (s.setTtCode v).rec0 = s.rec0 := rfl
@[simp] theorem State.setTtCode_rec1 (s : State) (v : Word) :
    (s.setTtCode v).rec1 = s.rec1 := rfl
@[simp] theorem State.setTtCode_rec2 (s : State) (v : Word) :
    (s.setTtCode v).rec2 = s.rec2 := rfl
@[simp] theorem State.setTtCode_rec3 (s : State) (v : Word) :
    (s.setTtCode v).rec3 = s.rec3 := rfl
@[simp] theorem State.setTtCode_rec4 (s : State) (v : Word) :
    (s.setTtCode v).rec4 = s.rec4 := rfl
@[simp] theorem State.setTtCode_seq (s : State) (v : Word) :
    (s.setTtCode v).seq = s.seq := rfl
@[simp] theorem State.setTtCode_fields (s : State) (v : Word) :
    (s.setTtCode v).fields = s.fields := rfl
@[simp] theorem State.setTtCode_origCode (s : State) (v : Word) :
    (s.setTtCode v).origCode = s.origCode := rfl
@[simp] theorem State.setTtCode_destCode (s : State) (v : Word) :
    (s.setTtCode v).destCode = s.destCode := rfl
@[simp] theorem State.setTtCode_ltotCode (s : State) (v : Word) :
    (s.setTtCode v).ltotCode = s.ltotCode := rfl
@[simp] theorem State.setTtCode_expiry (s : State) (v : Word) :
    (s.setTtCode v).expiry = s.expiry := rfl
@[simp] theorem State.setTtCode_ttCount (s : State) (v : Word) :
    (s.setTtCode v).ttCount = s.ttCount := rfl
@[simp] theorem State.setTtCode_ttCode (s : State) (v : Word) :
    (s.setTtCode v).ttCode = v := rfl
@[simp] theorem State.setTtCode_result (s : State) (v : Word) :
    (s.setTtCode v).result = s.result := rfl
@[simp] theorem State.setTtCode_ttList (s : State) (v : Word) :
    (s.setTtCode v).ttList = s.ttList := rfl
@[simp] theorem State.setTtCode_params (s : State) (v : Word) :
    (s.setTtCode v).params = s.params := rfl
@[simp] theorem State.setTtCode_pending (s : State) (v : Word) :
    (s.setTtCode v).pending = s.pending := rfl
@[simp] theorem State.setTtCode_readLog (s : State) (v : Word) :
    (s.setTtCode v).readLog = s.readLog := rfl

@[simp] theorem State.succeed_status (s : State) :
    s.succeed.status = s.status.succeed := rfl
@[simp] theorem State.succeed_rec0 (s : State) :
    s.succeed.rec0 = s.rec0 := rfl
@[simp] theorem State.succeed_rec1 (s : State) :
    s.succeed.rec1 = s.rec1 := rfl
@[simp] theorem State.succeed_rec2 (s : State) :
    s.succeed.rec2 = s.rec2 := rfl
@[simp] theorem State.succeed_rec3 (s : State) :
    s.succeed.rec3 = s.rec3 := rfl
@[simp] theorem State.succeed_rec4 (s : State) :
    s.succeed.rec4 = s.rec4 := rfl
@[simp] theorem State.succeed_seq (s : State) :
    s.succeed.seq = s.seq := rfl
@[simp] theorem State.succeed_fields (s : State) :
    s.succeed.fields = s.fields := rfl
@[simp] theorem State.succeed_origCode (s : State) :
    s.succeed.origCode = s.origCode := rfl
@[simp] theorem State.succeed_destCode (s : State) :
    s.succeed.destCode = s.destCode := rfl
@[simp] theorem State.succeed_ltotCode (s : State) :
    s.succeed.ltotCode = s.ltotCode := rfl
@[simp] theorem State.succeed_expiry (s : State) :
    s.succeed.expiry = s.expiry := rfl
@[simp] theorem State.succeed_ttCount (s : State) :
    s.succeed.ttCount = s.ttCount := rfl
@[simp] theorem State.succeed_ttCode (s : State) :
    s.succeed.ttCode = s.ttCode := rfl
@[simp] theorem State.succeed_result (s : State) :
    s.succeed.result = s.result := rfl
@[simp] theorem State.succeed_ttList (s : State) :
    s.succeed.ttList = s.ttList := rfl
@[simp] theorem State.succeed_params (s : State) :
    s.succeed.params = s.params := rfl
@[simp] theorem State.succeed_pending (s : State) :
    s.succeed.pending = s.pending := rfl
@[simp] theorem State.succeed_readLog (s : State) :
    s.succeed.readLog = s.readLog := rfl

@[simp] theorem State.raise_status (s : State) (e : CmdError) :
    (s.raise e).status = s.status.fail e := rfl
@[simp] theorem State.raise_rec0 (s : State) (e : CmdError) :
    (s.raise e).rec0 = s.rec0 := rfl
@[simp] theorem State.raise_rec1 (s : State) (e : CmdError) :
    (s.raise e).rec1 = s.rec1 := rfl
@[simp] theorem State.raise_rec2 (s : State) (e : CmdError) :
    (s.raise e).rec2 = s.rec2 := rfl
@[simp] theorem State.raise_rec3 (s : State) (e : CmdError) :
    (s.raise e).rec3 = s.rec3 := rfl
@[simp] theorem State.raise_rec4 (s : State) (e : CmdError) :
    (s.raise e).rec4 = s.rec4 := rfl
@[simp] theorem State.raise_seq (s : State) (e : CmdError) :
    (s.raise e).seq = s.seq := rfl
@[simp] theorem State.raise_fields (s : State) (e : CmdError) :
    (s.raise e).fields = s.fields := rfl
@[simp] theorem State.raise_origCode (s : State) (e : CmdError) :
    (s.raise e).origCode = s.origCode := rfl
@[simp] theorem State.raise_destCode (s : State) (e : CmdError) :
    (s.raise e).destCode = s.destCode := rfl
@[simp] theorem State.raise_ltotCode (s : State) (e : CmdError) :
    (s.raise e).ltotCode = s.ltotCode := rfl
@[simp] theorem State.raise_expiry (s : State) (e : CmdError) :
    (s.raise e).expiry = s.expiry := rfl
@[simp] theorem State.raise_ttCount (s : State) (e : CmdError) :
    (s.raise e).ttCount = s.ttCount := rfl
@[simp] theorem State.raise_ttCode (s : State) (e : CmdError) :
    (s.raise e).ttCode = s.ttCode := rfl
@[simp] theorem State.raise_result (s : State) (e : CmdError) :
    (s.raise e).result = s.result := rfl
@[simp] theorem State.raise_ttList (s : State) (e : CmdError) :
    (s.raise e).ttList = s.ttList := rfl
@[simp] theorem State.raise_params (s : State) (e : CmdError) :
    (s.raise e).params = s.params := rfl
@[simp] theorem State.raise_pending (s : State) (e : CmdError) :
    (s.raise e).pending = s.pending := rfl
@[simp] theorem State.raise_readLog (s : State) (e : CmdError) :
    (s.raise e).readLog = s.readLog := rfl

@[simp] theorem State.clearSticky_status (s : State) :
    s.clearSticky.status = { s.status with stickyErr := false } := rfl
@[simp] theorem State.clearSticky_rec0 (s : State) :
    s.clearSticky.rec0 = s.rec0 := rfl
@[simp] theorem State.clearSticky_rec1 (s : State) :
    s.clearSticky.rec1 = s.rec1 := rfl
@[simp] theorem State.clearSticky_rec2 (s : State) :
    s.clearSticky.rec2 = s.rec2 := rfl
@[simp] theorem State.clearSticky_rec3 (s : State) :
    s.clearSticky.rec3 = s.rec3 := rfl
@[simp] theorem State.clearSticky_rec4 (s : State) :
    s.clearSticky.rec4 = s.rec4 := rfl
@[simp] theorem State.clearSticky_seq (s : State) :
    s.clearSticky.seq = s.seq := rfl
@[simp] theorem State.clearSticky_fields (s : State) :
    s.clearSticky.fields = s.fields := rfl
@[simp] theorem State.clearSticky_origCode (s : State) :
    s.clearSticky.origCode = s.origCode := rfl
@[simp] theorem State.clearSticky_destCode (s : State) :
    s.clearSticky.destCode = s.destCode := rfl
@[simp] theorem State.clearSticky_ltotCode (s : State) :
    s.clearSticky.ltotCode = s.ltotCode := rfl
@[simp] theorem State.clearSticky_expiry (s : State) :
    s.clearSticky.expiry = s.expiry := rfl
@[simp] theorem State.clearSticky_ttCount (s : State) :
    s.clearSticky.ttCount = s.ttCount := rfl
@[simp] theorem State.clearSticky_ttCode (s : State) :
    s.clearSticky.ttCode = s.ttCode := rfl
@[simp] theorem State.clearSticky_result (s : State) :
    s.clearSticky.result = s.result := rfl
@[simp] theorem State.clearSticky_ttList (s : State) :
    s.clearSticky.ttList = s.ttList := rfl
@[simp] theorem State.clearSticky_params (s : State) :
    s.clearSticky.params = s.params := rfl
@[simp] theorem State.clearSticky_pending (s : State) :
    s.clearSticky.pending = s.pending := rfl
@[simp] theorem State.clearSticky_readLog (s : State) :
    s.clearSticky.readLog = s.readLog := rfl

@[simp] theorem State.rebuild_status (s : State) :
    s.rebuild.status = { s.status with seqValid := true } := rfl
@[simp] theorem State.rebuild_rec0 (s : State) :
    s.rebuild.rec0 = s.rec0 := rfl
@[simp] theorem State.rebuild_rec1 (s : State) :
    s.rebuild.rec1 = s.rec1 := rfl
@[simp] theorem State.rebuild_rec2 (s : State) :
    s.rebuild.rec2 = s.rec2 := rfl
@[simp] theorem State.rebuild_rec3 (s : State) :
    s.rebuild.rec3 = s.rec3 := rfl
@[simp] theorem State.rebuild_rec4 (s : State) :
    s.rebuild.rec4 = s.rec4 := rfl
@[simp] theorem State.rebuild_seq (s : State) :
    s.rebuild.seq = buildSeq s.recByte := rfl
@[simp] theorem State.rebuild_fields (s : State) :
    s.rebuild.fields = s.fields := rfl
@[simp] theorem State.rebuild_origCode (s : State) :
    s.rebuild.origCode = s.origCode := rfl
@[simp] theorem State.rebuild_destCode (s : State) :
    s.rebuild.destCode = s.destCode := rfl
@[simp] theorem State.rebuild_ltotCode (s : State) :
    s.rebuild.ltotCode = s.ltotCode := rfl
@[simp] theorem State.rebuild_expiry (s : State) :
    s.rebuild.expiry = s.expiry := rfl
@[simp] theorem State.rebuild_ttCount (s : State) :
    s.rebuild.ttCount = s.ttCount := rfl
@[simp] theorem State.rebuild_ttCode (s : State) :
    s.rebuild.ttCode = s.ttCode := rfl
@[simp] theorem State.rebuild_result (s : State) :
    s.rebuild.result = s.result := rfl
@[simp] theorem State.rebuild_ttList (s : State) :
    s.rebuild.ttList = s.ttList := rfl
@[simp] theorem State.rebuild_params (s : State) :
    s.rebuild.params = s.params := rfl
@[simp] theorem State.rebuild_pending (s : State) :
    s.rebuild.pending = s.pending := rfl
@[simp] theorem State.rebuild_readLog (s : State) :
    s.rebuild.readLog = s.readLog := rfl

@[simp] theorem State.clearDecode_status (s : State) :
    s.clearDecode.status = { s.status with decValid := false, warn := false } := rfl
@[simp] theorem State.clearDecode_rec0 (s : State) :
    s.clearDecode.rec0 = s.rec0 := rfl
@[simp] theorem State.clearDecode_rec1 (s : State) :
    s.clearDecode.rec1 = s.rec1 := rfl
@[simp] theorem State.clearDecode_rec2 (s : State) :
    s.clearDecode.rec2 = s.rec2 := rfl
@[simp] theorem State.clearDecode_rec3 (s : State) :
    s.clearDecode.rec3 = s.rec3 := rfl
@[simp] theorem State.clearDecode_rec4 (s : State) :
    s.clearDecode.rec4 = s.rec4 := rfl
@[simp] theorem State.clearDecode_seq (s : State) :
    s.clearDecode.seq = s.seq := rfl
@[simp] theorem State.clearDecode_fields (s : State) :
    s.clearDecode.fields = ⟨0, 0, 0, 0, 0, 0, 0, 0, 0, 0, 0⟩ := rfl
@[simp] theorem State.clearDecode_origCode (s : State) :
    s.clearDecode.origCode = 0 := rfl
@[simp] theorem State.clearDecode_destCode (s : State) :
    s.clearDecode.destCode = 0 := rfl
@[simp] theorem State.clearDecode_ltotCode (s : State) :
    s.clearDecode.ltotCode = 0 := rfl
@[simp] theorem State.clearDecode_expiry (s : State) :
    s.clearDecode.expiry = 0 := rfl
@[simp] theorem State.clearDecode_ttCount (s : State) :
    s.clearDecode.ttCount = 0 := rfl
@[simp] theorem State.clearDecode_ttCode (s : State) :
    s.clearDecode.ttCode = 0 := rfl
@[simp] theorem State.clearDecode_result (s : State) :
    s.clearDecode.result = s.result := rfl
@[simp] theorem State.clearDecode_ttList (s : State) :
    s.clearDecode.ttList = [] := rfl
@[simp] theorem State.clearDecode_params (s : State) :
    s.clearDecode.params = s.params := rfl
@[simp] theorem State.clearDecode_pending (s : State) :
    s.clearDecode.pending = s.pending := rfl
@[simp] theorem State.clearDecode_readLog (s : State) :
    s.clearDecode.readLog = s.readLog := rfl

@[simp] theorem State.commitDecode_status (s : State) (d : Decoded) :
    (s.commitDecode d).status = { s.status with decValid := true, warn := d.tickets.any fun e => !e.known } := rfl
@[simp] theorem State.commitDecode_rec0 (s : State) (d : Decoded) :
    (s.commitDecode d).rec0 = s.rec0 := rfl
@[simp] theorem State.commitDecode_rec1 (s : State) (d : Decoded) :
    (s.commitDecode d).rec1 = s.rec1 := rfl
@[simp] theorem State.commitDecode_rec2 (s : State) (d : Decoded) :
    (s.commitDecode d).rec2 = s.rec2 := rfl
@[simp] theorem State.commitDecode_rec3 (s : State) (d : Decoded) :
    (s.commitDecode d).rec3 = s.rec3 := rfl
@[simp] theorem State.commitDecode_rec4 (s : State) (d : Decoded) :
    (s.commitDecode d).rec4 = s.rec4 := rfl
@[simp] theorem State.commitDecode_seq (s : State) (d : Decoded) :
    (s.commitDecode d).seq = s.seq := rfl
@[simp] theorem State.commitDecode_fields (s : State) (d : Decoded) :
    (s.commitDecode d).fields = d.fields := rfl
@[simp] theorem State.commitDecode_origCode (s : State) (d : Decoded) :
    (s.commitDecode d).origCode = d.origCode := rfl
@[simp] theorem State.commitDecode_destCode (s : State) (d : Decoded) :
    (s.commitDecode d).destCode = d.destCode := rfl
@[simp] theorem State.commitDecode_ltotCode (s : State) (d : Decoded) :
    (s.commitDecode d).ltotCode = d.ltotCode := rfl
@[simp] theorem State.commitDecode_expiry (s : State) (d : Decoded) :
    (s.commitDecode d).expiry = d.expiry := rfl
@[simp] theorem State.commitDecode_ttCount (s : State) (d : Decoded) :
    (s.commitDecode d).ttCount = BitVec.ofNat 32 d.tickets.length := rfl
@[simp] theorem State.commitDecode_ttCode (s : State) (d : Decoded) :
    (s.commitDecode d).ttCode = 0 := rfl
@[simp] theorem State.commitDecode_result (s : State) (d : Decoded) :
    (s.commitDecode d).result = s.result := rfl
@[simp] theorem State.commitDecode_ttList (s : State) (d : Decoded) :
    (s.commitDecode d).ttList = d.tickets := rfl
@[simp] theorem State.commitDecode_params (s : State) (d : Decoded) :
    (s.commitDecode d).params = s.params := rfl
@[simp] theorem State.commitDecode_pending (s : State) (d : Decoded) :
    (s.commitDecode d).pending = s.pending := rfl
@[simp] theorem State.commitDecode_readLog (s : State) (d : Decoded) :
    (s.commitDecode d).readLog = s.readLog := rfl

@[simp] theorem State.applyReset_status (s : State) :
    s.applyReset.status = ⟨false, false, false, false, 0, 0, 0⟩ := rfl
@[simp] theorem State.applyReset_rec0 (s : State) :
    s.applyReset.rec0 = 0 := rfl
@[simp] theorem State.applyReset_rec1 (s : State) :
    s.applyReset.rec1 = 0 := rfl
@[simp] theorem State.applyReset_rec2 (s : State) :
    s.applyReset.rec2 = 0 := rfl
@[simp] theorem State.applyReset_rec3 (s : State) :
    s.applyReset.rec3 = 0 := rfl
@[simp] theorem State.applyReset_rec4 (s : State) :
    s.applyReset.rec4 = 0 := rfl
@[simp] theorem State.applyReset_seq (s : State) :
    s.applyReset.seq = 0 := rfl
@[simp] theorem State.applyReset_fields (s : State) :
    s.applyReset.fields = ⟨0, 0, 0, 0, 0, 0, 0, 0, 0, 0, 0⟩ := rfl
@[simp] theorem State.applyReset_origCode (s : State) :
    s.applyReset.origCode = 0 := rfl
@[simp] theorem State.applyReset_destCode (s : State) :
    s.applyReset.destCode = 0 := rfl
@[simp] theorem State.applyReset_ltotCode (s : State) :
    s.applyReset.ltotCode = 0 := rfl
@[simp] theorem State.applyReset_expiry (s : State) :
    s.applyReset.expiry = 0 := rfl
@[simp] theorem State.applyReset_ttCount (s : State) :
    s.applyReset.ttCount = 0 := rfl
@[simp] theorem State.applyReset_ttCode (s : State) :
    s.applyReset.ttCode = 0 := rfl
@[simp] theorem State.applyReset_result (s : State) :
    s.applyReset.result = 0 := rfl
@[simp] theorem State.applyReset_ttList (s : State) :
    s.applyReset.ttList = [] := rfl
@[simp] theorem State.applyReset_params (s : State) :
    s.applyReset.params = s.params := rfl
@[simp] theorem State.applyReset_pending (s : State) :
    s.applyReset.pending = s.pending := rfl
@[simp] theorem State.applyReset_readLog (s : State) :
    s.applyReset.readLog = s.readLog := rfl

@[simp] theorem State.issueFirst_status (s : State) (e : HostEvent) :
    (s.issueFirst e).status = s.status := rfl
@[simp] theorem State.issueFirst_rec0 (s : State) (e : HostEvent) :
    (s.issueFirst e).rec0 = s.rec0 := rfl
@[simp] theorem State.issueFirst_rec1 (s : State) (e : HostEvent) :
    (s.issueFirst e).rec1 = s.rec1 := rfl
@[simp] theorem State.issueFirst_rec2 (s : State) (e : HostEvent) :
    (s.issueFirst e).rec2 = s.rec2 := rfl
@[simp] theorem State.issueFirst_rec3 (s : State) (e : HostEvent) :
    (s.issueFirst e).rec3 = s.rec3 := rfl
@[simp] theorem State.issueFirst_rec4 (s : State) (e : HostEvent) :
    (s.issueFirst e).rec4 = s.rec4 := rfl
@[simp] theorem State.issueFirst_seq (s : State) (e : HostEvent) :
    (s.issueFirst e).seq = s.seq := rfl
@[simp] theorem State.issueFirst_fields (s : State) (e : HostEvent) :
    (s.issueFirst e).fields = s.fields := rfl
@[simp] theorem State.issueFirst_origCode (s : State) (e : HostEvent) :
    (s.issueFirst e).origCode = s.origCode := rfl
@[simp] theorem State.issueFirst_destCode (s : State) (e : HostEvent) :
    (s.issueFirst e).destCode = s.destCode := rfl
@[simp] theorem State.issueFirst_ltotCode (s : State) (e : HostEvent) :
    (s.issueFirst e).ltotCode = s.ltotCode := rfl
@[simp] theorem State.issueFirst_expiry (s : State) (e : HostEvent) :
    (s.issueFirst e).expiry = s.expiry := rfl
@[simp] theorem State.issueFirst_ttCount (s : State) (e : HostEvent) :
    (s.issueFirst e).ttCount = s.ttCount := rfl
@[simp] theorem State.issueFirst_ttCode (s : State) (e : HostEvent) :
    (s.issueFirst e).ttCode = s.ttCode := rfl
@[simp] theorem State.issueFirst_result (s : State) (e : HostEvent) :
    (s.issueFirst e).result = s.result := rfl
@[simp] theorem State.issueFirst_ttList (s : State) (e : HostEvent) :
    (s.issueFirst e).ttList = s.ttList := rfl
@[simp] theorem State.issueFirst_params (s : State) (e : HostEvent) :
    (s.issueFirst e).params = s.params := rfl
@[simp] theorem State.issueFirst_pending (s : State) (e : HostEvent) :
    (s.issueFirst e).pending = e :: s.pending := rfl
@[simp] theorem State.issueFirst_readLog (s : State) (e : HostEvent) :
    (s.issueFirst e).readLog = s.readLog := rfl

@[simp] theorem Status.succeed_seqValid (t : Status) : t.succeed.seqValid = t.seqValid := rfl
@[simp] theorem Status.succeed_decValid (t : Status) : t.succeed.decValid = t.decValid := rfl
@[simp] theorem Status.succeed_warn (t : Status) : t.succeed.warn = t.warn := rfl
@[simp] theorem Status.succeed_stickyErr (t : Status) : t.succeed.stickyErr = t.stickyErr := rfl
@[simp] theorem Status.succeed_errCode (t : Status) : t.succeed.errCode = 0 := rfl
@[simp] theorem Status.succeed_errField (t : Status) : t.succeed.errField = 0 := rfl
@[simp] theorem Status.succeed_errSub (t : Status) : t.succeed.errSub = 0 := rfl

@[simp] theorem Status.fail_seqValid (t : Status) (e : CmdError) : (t.fail e).seqValid = t.seqValid := rfl
@[simp] theorem Status.fail_decValid (t : Status) (e : CmdError) : (t.fail e).decValid = t.decValid := rfl
@[simp] theorem Status.fail_warn (t : Status) (e : CmdError) : (t.fail e).warn = t.warn := rfl
@[simp] theorem Status.fail_stickyErr (t : Status) (e : CmdError) : (t.fail e).stickyErr = true := rfl
@[simp] theorem Status.fail_errCode (t : Status) (e : CmdError) : (t.fail e).errCode = e.kind.code := rfl
@[simp] theorem Status.fail_errField (t : Status) (e : CmdError) : (t.fail e).errField = e.field := rfl
@[simp] theorem Status.fail_errSub (t : Status) (e : CmdError) : (t.fail e).errSub = e.sub := rfl

@[simp] theorem State.reset_status : State.reset.status = ⟨false, false, false, false, 0, 0, 0⟩ := rfl
@[simp] theorem State.reset_rec0 : State.reset.rec0 = 0 := rfl
@[simp] theorem State.reset_rec1 : State.reset.rec1 = 0 := rfl
@[simp] theorem State.reset_rec2 : State.reset.rec2 = 0 := rfl
@[simp] theorem State.reset_rec3 : State.reset.rec3 = 0 := rfl
@[simp] theorem State.reset_rec4 : State.reset.rec4 = 0 := rfl
@[simp] theorem State.reset_seq : State.reset.seq = 0 := rfl
@[simp] theorem State.reset_fields : State.reset.fields = ⟨0, 0, 0, 0, 0, 0, 0, 0, 0, 0, 0⟩ := rfl
@[simp] theorem State.reset_origCode : State.reset.origCode = 0 := rfl
@[simp] theorem State.reset_destCode : State.reset.destCode = 0 := rfl
@[simp] theorem State.reset_ltotCode : State.reset.ltotCode = 0 := rfl
@[simp] theorem State.reset_expiry : State.reset.expiry = 0 := rfl
@[simp] theorem State.reset_ttCount : State.reset.ttCount = 0 := rfl
@[simp] theorem State.reset_ttCode : State.reset.ttCode = 0 := rfl
@[simp] theorem State.reset_result : State.reset.result = 0 := rfl
@[simp] theorem State.reset_ttList : State.reset.ttList = [] := rfl
@[simp] theorem State.reset_params : State.reset.params = Config.platform := rfl
@[simp] theorem State.reset_pending : State.reset.pending = [] := rfl
@[simp] theorem State.reset_readLog : State.reset.readLog = [] := rfl

end Sys2Proof.Machine
end

