-- ==== Sys2Proof/Laws/Flags.lean ====
section
/-! SUPPORT. STATUS as a word: what a command that succeeds or errs leaves in it. -/

namespace Sys2Proof.Machine

/-- STATUS[3:0]: SEQ_VALID, DEC_VALID, WARN and STICKY_ERR. -/
def Status.flags (t : Status) : Word :=
  flagWord t.seqValid ||| (flagWord t.decValid <<< 1) ||| (flagWord t.warn <<< 2)
    ||| (flagWord t.stickyErr <<< 3)

theorem getLsbD_lowMask (i : Nat) : (15#32).getLsbD i = decide (i < 4) := by
  rcases Nat.lt_or_ge i 4 with h | h
  · interval_cases i <;> rfl
  · have : (15#32) = BitVec.setWidth 32 (15#4) := rfl
    rw [this, BitVec.getLsbD_setWidth, BitVec.getLsbD_of_ge _ _ h]
    simpa using h

theorem shifted_and_lowMask {w : Nat} (x : BitVec w) (n : Nat) (hn : 4 ≤ n) :
    15#32 &&& (x.zeroExtend 32 <<< n) = 0#32 := by
  apply BitVec.eq_of_getLsbD_eq
  intro i hi
  rw [BitVec.getLsbD_and, getLsbD_lowMask, BitVec.getLsbD_shiftLeft]
  simp
  omega

theorem Status.flags_and_lowMask (t : Status) : 15#32 &&& t.flags = t.flags := by
  obtain ⟨a, b, c, d, e, f, g⟩ := t
  simp only [Status.flags]
  revert a b c d
  decide

/-- The low four bits of STATUS are its flags. -/
theorem Status.word_and_lowMask (t : Status) : t.word &&& 15#32 = t.flags := by
  have hw : t.word = t.flags ||| (t.errCode.zeroExtend 32 <<< 4)
    ||| (t.errField.zeroExtend 32 <<< 8) ||| (t.errSub.zeroExtend 32 <<< 16) := rfl
  rw [hw, BitVec.and_comm, BitVec.and_or_distrib_left, BitVec.and_or_distrib_left,
    BitVec.and_or_distrib_left, t.flags_and_lowMask, shifted_and_lowMask _ 4 (by decide),
    shifted_and_lowMask _ 8 (by decide), shifted_and_lowMask _ 16 (by decide)]
  simp

/-- STATUS[3:0] as a number. -/
theorem Status.flags_toNat (t : Status) : t.flags.toNat
    = t.seqValid.toNat + 2 * t.decValid.toNat + 4 * t.warn.toNat + 8 * t.stickyErr.toNat := by
  obtain ⟨a, b, c, d, e, f, g⟩ := t
  simp only [Status.flags]
  revert a b c d
  decide

/-- STATUS as a number: its flags and, side by side above them, the error fields (10_state.md R24). -/
theorem Status.word_toNat (t : Status) : t.word.toNat
    = t.flags.toNat + 16 * t.errCode.toNat + 256 * t.errField.toNat + 65536 * t.errSub.toNat := by
  have hw : t.word = t.flags ||| (t.errCode.zeroExtend 32 <<< 4)
    ||| (t.errField.zeroExtend 32 <<< 8) ||| (t.errSub.zeroExtend 32 <<< 16) := rfl
  have hl : t.flags.toNat < 16 := by
    rw [t.flags_toNat]
    have := t.seqValid.toNat_le
    have := t.decValid.toNat_le
    have := t.warn.toNat_le
    have := t.stickyErr.toNat_le
    omega
  have hc := t.errCode.isLt
  have hf := t.errField.isLt
  have hs := t.errSub.isLt
  have join (a b k : Nat) (ha : a < 2 ^ k) : a ||| b * 2 ^ k = a + 2 ^ k * b := by
    rw [Nat.or_comm, Nat.mul_comm, ← Nat.two_pow_add_eq_or_of_lt ha, Nat.add_comm]
  rw [hw]
  simp only [BitVec.toNat_or, BitVec.toNat_shiftLeft, BitVec.toNat_setWidth, Nat.shiftLeft_eq]
  rw [Nat.mod_eq_of_lt (a := t.errCode.toNat) (by omega),
    Nat.mod_eq_of_lt (a := t.errField.toNat) (by omega),
    Nat.mod_eq_of_lt (a := t.errSub.toNat) (by omega), Nat.mod_eq_of_lt (by omega),
    Nat.mod_eq_of_lt (by omega), Nat.mod_eq_of_lt (by omega), join _ _ 4 (by omega),
    join _ _ 8 (by omega), join _ _ 16 (by omega)]
  rfl

/-- A mask inside STATUS[3:0] sees only the flags. -/
theorem Status.word_and_of_low (t : Status) (m : Word) (hm : 15#32 &&& m = m) :
    t.word &&& m = t.flags &&& m := by
  rw [← t.word_and_lowMask, BitVec.and_assoc, hm]

/-- STATUS after a success: the flags, the error fields 0 (10_state.md R29 to R31). -/
theorem Status.word_of_noError (t : Status) (hc : t.errCode = 0) (hf : t.errField = 0)
    (hs : t.errSub = 0) : t.word = t.flags := by
  obtain ⟨a, b, c, d, e, f, g⟩ := t
  simp only at hc hf hs
  subst hc hf hs
  revert a b c d
  decide

@[simp] theorem Status.succeed_flags (t : Status) : t.succeed.flags = t.flags := rfl

/-- STATUS after `succeed`: the old flags alone. -/
theorem Status.word_succeed (t : Status) : t.succeed.word = t.word &&& 15#32 := by
  rw [t.word_and_lowMask, ← t.succeed_flags]
  exact t.succeed.word_of_noError rfl rfl rfl

/-- What `raise` sets in STATUS: STICKY_ERR and the error's fields (60_exceptions.md R174). -/
def CmdError.word (e : CmdError) : Word :=
  8#32 ||| ((e.kind.code.zeroExtend 32 <<< 4) ||| ((e.field.zeroExtend 32 <<< 8)
    ||| (e.sub.zeroExtend 32 <<< 16)))

/-- STATUS after `raise`: the old SEQ_VALID, DEC_VALID and WARN, and the error (60_exceptions.md R174). -/
theorem Status.word_fail (t : Status) (e : CmdError) :
    (t.fail e).word = (t.word &&& 7#32) ||| e.word := by
  rw [t.word_and_of_low _ (by decide)]
  have hw : (t.fail e).word = (t.fail e).flags ||| (e.kind.code.zeroExtend 32 <<< 4)
    ||| (e.field.zeroExtend 32 <<< 8) ||| (e.sub.zeroExtend 32 <<< 16) := rfl
  have hf : (t.fail e).flags = (t.flags &&& 7#32) ||| 8#32 := by
    obtain ⟨a, b, c, d, x, y, z⟩ := t
    simp only [Status.flags, Status.fail]
    clear hw
    revert a b c d
    decide
  rw [hw, hf, CmdError.word]
  simp only [BitVec.or_assoc]

/-- The word of an error that names no field. -/
theorem CmdError.word_plain (k : ErrorKind) :
    (CmdError.plain k).word = 0xFF08#32 ||| (k.code.zeroExtend 32 <<< 4) := by
  cases k <;> rfl

end Sys2Proof.Machine
end

