-- ==== Sys2Proof/Laws/Ops.lean ====
section
/-! SUPPORT. The bit-reorder network and the record's bytes (40_bit_reorder.md R90, R91). -/

namespace Sys2Proof.Machine

theorem reverse8_getLsbD (b : Byte) (k : Nat) (h : k < 8) :
    (reverse8 b).getLsbD k = b.getLsbD (7 - k) := by
  interval_cases k <;> (revert b; decide)

theorem getLsbD_append_high {w : Nat} (x : BitVec w) (y : Byte) (j : Nat) (h : 8 ≤ j) :
    (x ++ y).getLsbD j = x.getLsbD (j - 8) := by
  rw [BitVec.getLsbD_append, if_neg (by omega)]

theorem getLsbD_append_low {w : Nat} (x : BitVec w) (y : Byte) (j : Nat) (h : j < 8) :
    (x ++ y).getLsbD j = y.getLsbD j := by
  rw [BitVec.getLsbD_append, if_pos h]

/-- Sequence bit 8i + k is bit k of byte i (R91). -/
theorem buildSeq_getLsbD (f : Nat → Byte) (i k : Nat) (hi : i < 19) (hk : k < 8) :
    (buildSeq f).getLsbD (151 - (8 * i + k)) = (f i).getLsbD k := by
  have hr : (f i).getLsbD k = (reverse8 (f i)).getLsbD (7 - k) := by
    rw [reverse8_getLsbD _ _ (by omega)]
    exact congrArg _ (by omega)
  rw [hr]
  unfold buildSeq
  interval_cases i <;> (repeat rw [getLsbD_append_high _ _ _ (by omega)])
    <;> (try rw [getLsbD_append_low _ _ _ (by omega)]) <;> exact congrArg _ (by omega)

/-- Byte lane k is bits [8k+7:8k] (20_memory.md R55). -/
theorem byteLane_toNat (w : Word) (k : Nat) : (byteLane w k).toNat = w.toNat / 2 ^ (8 * k) % 256 := by
  rw [byteLane, BitVec.extractLsb'_toNat, Nat.shiftRight_eq_div_pow]

end Sys2Proof.Machine
end

