-- ==== Sys2Proof/Laws/Step.lean ====
section
/-! SUPPORT. What a step can do: the inversion of `step` (20_memory.md R54, R58). -/

namespace Sys2Proof.Machine

theorem accessModelled_iff (bytes : Nat) (off : BitVec 8) :
    accessModelled bytes off = true ↔ bytes = 4 ∧ off.toNat % 4 = 0 := by
  rw [accessModelled, Bool.and_eq_true, decide_eq_true_iff, decide_eq_true_iff, Config.busBytes]

/-- A step serves the oldest event. -/
theorem step_of_pending {s : State} {e : HostEvent} {rest : List HostEvent}
    (h : s.pending = e :: rest) : step s = serve e { s with pending := rest } := by
  rw [step, serveNext, h]

/-- A run's first step. -/
theorem run_succ_of_step {s t : State} (k : Nat) (h : step s = .next t) :
    Host.Core.run core (k + 1) s = Host.Core.run core k t := by
  have hc : core.step s = .next t := h
  simp only [Host.Core.run, hc]

/-- A step that answers a next state waits, serves a read, runs a command, writes a register, or resets. -/
theorem step_next_cases {s t : State} (h : step s = .next t) :
    (s.pending = [] ∧ t = s) ∨ ∃ e rest, s.pending = e :: rest
      ∧ ((∃ off, e = .read 4 off
            ∧ t = { s with pending := rest, readLog := s.readLog ++ [s.readReg off] })
        ∨ (∃ w, e = .write 4 cmdOffset w ∧ runCommand w { s with pending := rest } = .next t)
        ∨ (∃ off v, e = .write 4 off v ∧ off ≠ cmdOffset
            ∧ t = State.writeReg { s with pending := rest } off v)
        ∨ (e = .reset ∧ t = State.applyReset { s with pending := rest })) := by
  unfold step serveNext at h
  split at h
  · rename_i hp
    cases h
    exact .inl ⟨hp, rfl⟩
  · rename_i e rest hp
    refine .inr ⟨e, rest, hp, ?_⟩
    unfold serve at h
    split at h
    · split at h <;> cases h
      rename_i bytes off ha
      obtain ⟨rfl, -⟩ := (accessModelled_iff _ _).1 ha
      exact .inl ⟨off, rfl, rfl⟩
    · split at h
      · rename_i bytes off v ha
        obtain ⟨rfl, -⟩ := (accessModelled_iff _ _).1 ha
        split at h
        · rename_i hc
          exact .inr (.inl ⟨v, by rw [hc], h⟩)
        · rename_i hc
          cases h
          exact .inr (.inr (.inl ⟨off, v, rfl, hc, rfl⟩))
      · cases h
    · cases h
      exact .inr (.inr (.inr ⟨rfl, rfl⟩))

/-- A REC write changes no field but the record's. -/
theorem writeReg_frame (s : State) (off : BitVec 8) (v : Word) :
    s.writeReg off v = { s with
      rec0 := (s.writeReg off v).rec0, rec1 := (s.writeReg off v).rec1
      rec2 := (s.writeReg off v).rec2, rec3 := (s.writeReg off v).rec3
      rec4 := (s.writeReg off v).rec4 } := by
  unfold State.writeReg
  split <;> rfl

end Sys2Proof.Machine
end

