-- ==== Sys2Proof/Laws/HostSide.lean ====
section
/-! SUPPORT. The hex text of LOADREC: the value of a digit, the texts that have bytes, and the bytes they have
(30_encoding.md R79, 70_reset_and_hazards.md R196). -/

namespace Sys2Proof.Machine

theorem hexDigit_range {c : Char} {h : Nat} (hd : hexDigit c = some h) : h < 16
    ∧ c = Char.ofNat (if h < 10 then 0x30 + h else if c.toNat < 0x61 then 0x37 + h else 0x57 + h) := by
  simp only [hexDigit] at hd
  have hc := c.ofNat_toNat
  split at hd
  · cases hd
    refine ⟨by omega, ?_⟩
    rw [if_pos (by omega), ← hc]
    congr 1
    simp
    omega
  · split at hd
    · cases hd
      refine ⟨by omega, ?_⟩
      rw [if_neg (by omega), if_pos (by omega)]
      nth_rw 1 [← hc]
      congr 1
      omega
    · split at hd <;> cases hd
      refine ⟨by omega, ?_⟩
      rw [if_neg (by omega), if_neg (by omega)]
      nth_rw 1 [← hc]
      congr 1
      omega

/-- The value of a hex digit is its place among the hex digits (R196). -/
theorem hexDigit_eq_some_iff (c : Char) (h : Nat) : hexDigit c = some h ↔ SpellsDigit c h := by
  constructor
  · intro hd
    obtain ⟨hl, hc⟩ := hexDigit_range hd
    by_cases hx : c.toNat < 0x61
    · rw [if_pos hx] at hc
      clear hd hx
      subst hc
      interval_cases h <;> exact .inl rfl
    · rw [if_neg hx] at hc
      clear hd hx
      subst hc
      interval_cases h <;> exact .inr rfl
  · intro hs
    have hl : h < 16 := by
      rcases hs with hs | hs <;> exact (List.getElem?_eq_some_iff.1 hs).1
    interval_cases h <;> (rcases hs with hs | hs <;> cases hs <;> rfl)

/-- A pair of digits in front is a byte in front. -/
theorem hexBytes_cons_cons_eq_some (hi lo : Char) (rest : List Char) (bs : List Byte) :
    hexBytes (hi :: lo :: rest) = some bs ↔ ∃ h l tail, SpellsDigit hi h ∧ SpellsDigit lo l
      ∧ hexBytes rest = some tail ∧ bs = BitVec.ofNat 8 (16 * h + l) :: tail := by
  simp only [← hexDigit_eq_some_iff, hexBytes]
  split
  · rename_i h l tail e1 e2 e3
    simp only [e1, e2, e3, Option.some.injEq]
    constructor
    · rintro rfl
      exact ⟨h, l, tail, rfl, rfl, rfl, rfl⟩
    · rintro ⟨_, _, _, rfl, rfl, rfl, rfl⟩
      rfl
  · rename_i hn
    simp only [reduceCtorEq, false_iff, not_exists, not_and]
    intro h l tail e1 e2 e3
    exact absurd e3 (hn h l tail e1 e2)

/-- The texts that spell bytes: an even number of hex digits. -/
theorem hexBytes_isSome_iff : ∀ digits : List Char, (∃ bs, hexBytes digits = some bs)
    ↔ digits.length % 2 = 0 ∧ ∀ c ∈ digits, ∃ h, SpellsDigit c h
  | [] => by simp [hexBytes]
  | [_] => by simp [hexBytes]
  | hi :: lo :: rest => by
    have ih := hexBytes_isSome_iff rest
    have hl : (hi :: lo :: rest).length % 2 = rest.length % 2 := by simp; omega
    rw [hl]
    simp only [hexBytes_cons_cons_eq_some, List.forall_mem_cons]
    constructor
    · rintro ⟨_, h, l, tail, e1, e2, e3, -⟩
      obtain ⟨h2, h3⟩ := ih.1 ⟨tail, e3⟩
      exact ⟨h2, ⟨h, e1⟩, ⟨l, e2⟩, h3⟩
    · rintro ⟨h2, ⟨h, e1⟩, ⟨l, e2⟩, h3⟩
      obtain ⟨tail, e3⟩ := ih.2 ⟨h2, h3⟩
      exact ⟨_, h, l, tail, e1, e2, e3, rfl⟩

/-- Byte i is the two digits from 2i on. -/
theorem hexBytes_getElem : ∀ (digits : List Char) (bs : List Byte), hexBytes digits = some bs →
    ∀ i, 2 * i < digits.length → ∃ (hi lo : Char) (h l : Nat),
      digits[2 * i]? = some hi ∧ digits[2 * i + 1]? = some lo ∧ SpellsDigit hi h ∧ SpellsDigit lo l
        ∧ bs[i]? = some (BitVec.ofNat 8 (16 * h + l))
  | [], _, _ => by simp
  | [_], _, hb => by simp [hexBytes] at hb
  | hi :: lo :: rest, bs, hb => by
    obtain ⟨h, l, tail, e1, e2, e3, rfl⟩ := (hexBytes_cons_cons_eq_some hi lo rest bs).1 hb
    intro i hi'
    cases i with
    | zero => exact ⟨hi, lo, h, l, rfl, rfl, e1, e2, rfl⟩
    | succ i =>
      obtain ⟨a, b, x, y, g1, g2, g⟩ := hexBytes_getElem rest tail e3 i (by simp at hi'; omega)
      exact ⟨a, b, x, y, by simpa [Nat.mul_add] using g1, by simpa [Nat.mul_add] using g2, g⟩

theorem spellsDigit_lt {c : Char} {h : Nat} (hs : SpellsDigit c h) : h < 16 :=
  (hexDigit_range ((hexDigit_eq_some_iff c h).2 hs)).1

/-- Byte k of the word `Wj` is byte 4j + k (R79). -/
theorem packWord_byteLane (bytes : List Byte) (j k : Nat) (hk : k < 4) :
    byteLane (packWord bytes j) k = bytes.getD (4 * j + k) 0 := by
  have key : ∀ (a b c d : Byte), ∀ k < 4,
      byteLane (a.zeroExtend 32 ||| (b.zeroExtend 32 <<< 8) ||| (c.zeroExtend 32 <<< 16)
        ||| (d.zeroExtend 32 <<< 24)) k = [a, b, c, d].getD k 0 := by
    intro a b c d k hk
    apply BitVec.eq_of_getLsbD_eq
    intro i hi
    interval_cases k <;> interval_cases i <;> simp [byteLane]
  rw [packWord, key _ _ _ _ k hk]
  interval_cases k <;> rfl

end Sys2Proof.Machine
end

