-- ==== Sys2Proof/Laws/Slicer.lean ====
section
/-! SUPPORT. The extractor: its loop as a shift, and its range check in numbers (41_slicers.md R103, R104). -/

namespace Sys2Proof.Slicer

@[simp] theorem readBits_zero (seq : Seq) (ps : Nat) : readBits seq ps 0 = 0 := rfl

theorem readBits_succ (seq : Seq) (ps n : Nat) :
    readBits seq ps (n + 1) = readBits seq ps n * 2 + seqBit seq (ps + n) := rfl

/-- A sequence bit as a bit of the view `S`. -/
theorem seqBit_eq (seq : Seq) (p : Nat) (hp : p < 152) :
    seqBit seq p = seq.toNat / 2 ^ (151 - p) % 2 := by
  have h : seq.getMsbD p = seq.toNat.testBit (151 - p) := by
    simp [BitVec.getMsbD, hp, BitVec.testBit_toNat]
  rw [seqBit, h, Nat.testBit_eq_decide_div_mod_eq]
  rcases Nat.mod_two_eq_zero_or_one (seq.toNat / 2 ^ (151 - p)) with h | h <;> simp [h]

/-- The loop of R102 is the barrel shift of R103. -/
theorem readBits_eq_shift (seq : Seq) (ps n : Nat) (h : ps + n ≤ 152) :
    readBits seq ps n = seq.toNat / 2 ^ (152 - ps - n) % 2 ^ n := by
  induction n with
  | zero => simp [Nat.mod_one]
  | succ n ih =>
    have hq : 152 - ps - n = (151 - (ps + n)) + 1 := by omega
    have hq' : 152 - ps - (n + 1) = 151 - (ps + n) := by omega
    rw [readBits_succ, ih (by omega), seqBit_eq _ _ (by omega), hq, hq']
    generalize 151 - (ps + n) = q
    rw [Nat.pow_succ 2 q, ← Nat.div_div_eq_div_mul, Nat.pow_succ' (m := 2) (n := n), Nat.mod_mul]
    omega

theorem readBits_lt (seq : Seq) (ps n : Nat) : readBits seq ps n < 2 ^ n := by
  induction n with
  | zero => simp
  | succ n ih =>
    have : seqBit seq (ps + n) ≤ 1 := by unfold seqBit; cases seq.getMsbD (ps + n) <;> simp
    rw [readBits_succ, Nat.pow_succ]
    omega

/-- The loop reads only the bits of its range. -/
theorem readBits_congr (seq seq' : Seq) (ps n : Nat)
    (h : ∀ p, ps ≤ p → p < ps + n → seq.getMsbD p = seq'.getMsbD p) :
    readBits seq ps n = readBits seq' ps n := by
  induction n with
  | zero => rfl
  | succ n ih =>
    rw [readBits_succ, readBits_succ, ih (fun p h1 h2 => h p h1 (by omega)), seqBit, seqBit,
      h (ps + n) (by omega) (by omega)]

/-- The range check of R104 in numbers. -/
theorem inRange_iff (headerAdj : Nat) (f : FieldSpec) :
    inRange headerAdj f = true ↔ headerAdj ≤ f.start ∧ f.start + f.length ≤ 152 + headerAdj := by
  rw [inRange, Bool.and_eq_true, decide_eq_true_iff, decide_eq_true_iff, physicalStart, Config.seqBits]
  omega

/-- A slicer's output is the barrel shift of its field (R103, R105). -/
theorem slicer_eq_shift (headerAdj : Nat) (seq : Seq) (f : FieldSpec)
    (h1 : headerAdj ≤ f.start) (h2 : f.start + f.length ≤ 152 + headerAdj) :
    slicer headerAdj seq f = seq.toNat / 2 ^ (f.start - headerAdj) % 2 ^ f.length := by
  have hp : (physicalStart headerAdj f).toNat = 152 + headerAdj - f.start - f.length := by
    simp only [physicalStart, Config.seqBits]
    omega
  have hs : 152 - (152 + headerAdj - f.start - f.length) - f.length = f.start - headerAdj := by omega
  rw [slicer, hp, readBits_eq_shift _ _ _ (by omega), hs]

/-- `extract` in the range: the barrel shift; out of it: none (R102, R104). -/
theorem extract_eq (headerAdj : Nat) (seq : Seq) (f : FieldSpec) :
    extract headerAdj seq f
      = if headerAdj ≤ f.start ∧ f.start + f.length ≤ 152 + headerAdj then
          some (seq.toNat / 2 ^ (f.start - headerAdj) % 2 ^ f.length)
        else none := by
  by_cases h : headerAdj ≤ f.start ∧ f.start + f.length ≤ 152 + headerAdj
  · rw [if_pos h, extract, if_pos ((inRange_iff _ _).2 h), slicer_eq_shift _ _ _ h.1 h.2]
  · rw [if_neg h, extract, if_neg (fun hr => h ((inRange_iff _ _).1 hr))]

/-- The lowest failing row is found: the search from row k fails at the first row out of range. -/
theorem firstOutOfRange_eq_none (headerAdj k : Nat) (fs : List FieldSpec) :
    firstOutOfRange headerAdj k fs = none ↔ ∀ f ∈ fs, inRange headerAdj f = true := by
  induction fs generalizing k with
  | nil => simp [firstOutOfRange]
  | cons f rest ih =>
    by_cases h : inRange headerAdj f = true
    · simp [firstOutOfRange, h, ih]
    · simp [firstOutOfRange, h]

end Sys2Proof.Slicer
end

