-- ==== Sys2Proof/Laws/Pipeline.lean ====
section
/-! SUPPORT. DECODE with the layout of the hardware: its range checks pass, its slicers are the fields of the
table, and its two outcomes (43_decode_resolve.md R140 to R143, 41_slicers.md R106). -/

namespace Sys2Proof.Machine

/-- Every row of the default table passes the range check (R106). -/
theorem default_inRange :
    ∀ f ∈ Layout.default.table.toList, Slicer.inRange Layout.default.headerAdj f = true := by decide

/-- The eleven values the slicers give for a sequence. -/
abbrev slicerValues (seq : Seq) : PerField Nat :=
  Layout.default.table.map (Slicer.slicer Config.headerAdj seq)

theorem decodeSeq_default (p : Params) (seq : Seq) :
    decodeSeq Layout.default p seq = resolveFields p (slicerValues seq) := by
  rw [decodeSeq, (Slicer.firstOutOfRange_eq_none _ _ _).2 default_inRange]
  rfl

/-- Slicer k gives the bits of `S` that the table of R101 names. -/
theorem slicerValues_get (seq : Seq) (k : Fin 11) : (slicerValues seq).get k = fieldValue seq k := by
  fin_cases k <;>
    (simp only [slicerValues, PerField.map, PerField.get, Layout.default]
     exact Slicer.slicer_eq_shift _ _ _ (by decide) (by decide))

theorem fieldValue_lt (seq : Seq) (k : Fin 11) : fieldValue seq k < 2 ^ fieldWidth k :=
  Nat.mod_lt _ (by positivity)

/-- What a DECODE with both LTOT halves at most 25 computes from its sequence. -/
def decodedOf (p : Params) (seq : Seq) : Decoded :=
  let v := fieldValue seq
  let l0 := BitVec.ofNat 8 (0x41 + v 5 / 32)
  let l1 := BitVec.ofNat 8 (0x41 + v 5 % 32)
  { fields := (slicerValues seq).map (BitVec.ofNat 32)
    origCode := packLocation (v 1) (BitVec.ofNat 8 (locationAscii (v 0)))
    destCode := packLocation (v 3) (BitVec.ofNat 8 (locationAscii (v 2)))
    ltotCode := packLetters l0 l1
    expiry := Calendar.packDate (Calendar.addDays p.epoch.date (v 10))
    tickets := resolveTickets p.refIndex ⟨l0, l1⟩ }

/-- The two outcomes of DECODE: the one error is the LTOT halves' (R142, R106). -/
theorem decodeSeq_cases (p : Params) (seq : Seq) :
    decodeSeq Layout.default p seq
      = if fieldValue seq 5 / 32 ≤ 25 ∧ fieldValue seq 5 % 32 ≤ 25 then .ok (decodedOf p seq)
        else .error ⟨.alphabetRange, 5, Alphabet.ltotSub (fieldValue seq 5)⟩ := by
  have e (k : Fin 11) := slicerValues_get seq k
  have e0 := e 0
  have e1 := e 1
  have e2 := e 2
  have e3 := e 3
  have e5 := e 5
  have e10 := e 10
  simp only [PerField.get] at e0 e1 e2 e3 e5 e10
  rw [decodeSeq_default, resolveFields, e0, e1, e2, e3, e5, e10,
    Alphabet.locChar_of_lt _ (fieldValue_lt seq 0), Alphabet.locChar_of_lt _ (fieldValue_lt seq 2)]
  by_cases h : fieldValue seq 5 / 32 ≤ 25 ∧ fieldValue seq 5 % 32 ≤ 25
  · rw [if_pos h, Alphabet.ltotChars_of_le _ h.1 h.2]
    rfl
  · rw [if_neg h, Alphabet.ltotChars_of_gt _ (by omega)]

/-- DECODE succeeds: the sequence rebuilt, then the outputs written (R140). -/
theorem execDecode_success (s : State) (hi : fieldValue (buildSeq s.recByte) 5 / 32 ≤ 25)
    (lo : fieldValue (buildSeq s.recByte) 5 % 32 ≤ 25) :
    exec .decode s
      = .next (s.rebuild.commitDecode (decodedOf s.params (buildSeq s.recByte))).succeed := by
  rw [exec, execDecode, decodeSeq_cases, State.rebuild_seq, if_pos ⟨hi, lo⟩]

/-- DECODE fails: the sequence rebuilt, the result registers zeroed, the error raised (R143). -/
theorem execDecode_failure (s : State)
    (h : 25 < fieldValue (buildSeq s.recByte) 5 / 32 ∨ 25 < fieldValue (buildSeq s.recByte) 5 % 32) :
    exec .decode s
      = .next (s.rebuild.clearDecode.raise
          ⟨.alphabetRange, 5, Alphabet.ltotSub (fieldValue (buildSeq s.recByte) 5)⟩) := by
  rw [exec, execDecode, decodeSeq_cases, State.rebuild_seq, if_neg (by omega)]

end Sys2Proof.Machine
end

