-- ==== Sys2Proof/Laws/Meanings.lean ====
section
/-! SUPPORT. What each command's meaning can answer: one lemma per meaning with a case to decide. The others
(NOP, BUILD, XDATE, CLRERR, SRESET) answer one state, by rfl. -/

namespace Sys2Proof.Machine

/-- SLICE answers an abort or the field in RESULT (41_slicers.md R107). -/
theorem execSlice_cases {s t : State} {start len : Nat} (h : exec (.slice start len) s = .next t) :
    (∃ k, t = s.abort (.plain k)) ∨ ∃ v, t = s.finish v := by
  simp only [exec, execSlice] at h
  split at h
  · cases h
    exact .inl ⟨_, rfl⟩
  · split at h
    · cases h
      exact .inl ⟨_, rfl⟩
    · split at h <;> cases h
      · exact .inl ⟨_, rfl⟩
      · exact .inr ⟨_, rfl⟩

/-- SLICE in range answers the barrel shift of SEQ (41_slicers.md R103, R107). -/
theorem execSlice_inRange (s : State) (start len : Nat) (hv : s.status.seqValid = true)
    (hl : len ≤ 32) (h1 : 24 ≤ start) (h2 : start + len ≤ 176) :
    exec (.slice start len) s
      = .next (s.finish (BitVec.ofNat 32 (s.seq.toNat / 2 ^ (start - 24) % 2 ^ len))) := by
  simp only [exec, execSlice, Config.maxSlice, Config.headerAdj, Slicer.extract_eq]
  rw [if_neg (by simp [hv]), if_neg (by omega), if_pos ⟨h1, by omega⟩]

/-- XLOC answers the abort or the character (42_domain_luts.md R129). -/
theorem execXloc_cases {s t : State} {idx : Nat} (h : exec (.xloc idx) s = .next t) :
    (32 ≤ idx ∧ t = s.abort (.plain .alphabetRange))
      ∨ (idx < 32 ∧ t = s.finish ((BitVec.ofNat 8 (locationAscii idx)).zeroExtend 32)) := by
  simp only [exec, execXloc] at h
  by_cases hi : idx < 32
  · rw [Alphabet.locChar_of_lt _ hi] at h
    cases h
    exact .inr ⟨hi, rfl⟩
  · rw [Alphabet.locChar_of_ge _ (by omega)] at h
    cases h
    exact .inl ⟨by omega, rfl⟩

/-- XLTOT answers the abort that names the halves, or the letters (42_domain_luts.md R130). -/
theorem execXltot_cases {s t : State} {raw : Nat} (h : exec (.xltot raw) s = .next t) :
    t = s.abort ⟨.alphabetRange, 0xFF, Alphabet.ltotSub raw⟩
      ∨ ∃ c0 c1, t = s.finish (packLetters c0 c1) := by
  simp only [exec, execXltot] at h
  by_cases hr : raw / 32 ≤ 25 ∧ raw % 32 ≤ 25
  · rw [Alphabet.ltotChars_of_le _ hr.1 hr.2] at h
    cases h
    exact .inr ⟨_, _, rfl⟩
  · rw [Alphabet.ltotChars_of_gt _ (by omega)] at h
    cases h
    exact .inl rfl

/-- DECODE answers one of its two outcomes (43_decode_resolve.md R140, R143). -/
theorem execDecode_cases {s t : State} (h : exec .decode s = .next t) :
    t = (s.rebuild.commitDecode (decodedOf s.params (buildSeq s.recByte))).succeed
      ∨ t = s.rebuild.clearDecode.raise
          ⟨.alphabetRange, 5, Alphabet.ltotSub (fieldValue (buildSeq s.recByte) 5)⟩ := by
  by_cases hr : fieldValue (buildSeq s.recByte) 5 / 32 ≤ 25 ∧ fieldValue (buildSeq s.recByte) 5 % 32 ≤ 25
  · rw [execDecode_success s hr.1 hr.2] at h
    cases h
    exact .inl rfl
  · rw [execDecode_failure s (by omega)] at h
    cases h
    exact .inr rfl

/-- TTSEL answers OPERAND_RANGE or the entry in TT_CODE (43_decode_resolve.md R148). -/
theorem execTtsel_cases {s t : State} {k : Nat} (h : exec (.ttsel k) s = .next t) :
    t = s.raise (.plain .operandRange)
      ∨ ∃ e, s.ttList[k]? = some e ∧ t = (s.setTtCode (packTicket e)).succeed := by
  simp only [exec, execTtsel] at h
  split at h
  · cases h
    exact .inl rfl
  · split at h <;> cases h
    · exact .inl rfl
    · exact .inr ⟨_, ‹_›, rfl⟩

end Sys2Proof.Machine
end

