-- ==== Sys2Proof/Laws/PerInstr.lean ====
section
/-! SUPPORT. Statements for all commands, one lemma per constructor: `EncodedFormat`, that the word of a
command has its opcode in [7:0] and 0 in its format's reserved bits (30_encoding.md R71, R73, R76). -/

namespace Sys2Proof.Laws.EncodedFormat

/-- The opcode of each command (30_encoding.md R73). -/
def opcode : Instr → Byte
  | .nop => 0x00
  | .build => 0x01
  | .slice _ _ => 0x02
  | .decode => 0x03
  | .xloc _ => 0x04
  | .xltot _ => 0x05
  | .xdate _ => 0x06
  | .ttsel _ => 0x07
  | .clrerr => 0x08
  | .sreset => 0x09

/-- The lowest reserved bit of each command's format (30_encoding.md R71). -/
def firstReserved : Instr → Nat
  | .nop => 8
  | .build => 8
  | .slice _ _ => 22
  | .decode => 8
  | .xloc _ => 14
  | .xltot _ => 18
  | .xdate _ => 17
  | .ttsel _ => 24
  | .clrerr => 8
  | .sreset => 8

/-- The word of a well-formed command has its opcode, and nothing above its operands. -/
def Statement (i : Instr) : Prop :=
  i.WellFormed → opcodeOf (encode i) = opcode i ∧ (encode i).toNat < 2 ^ firstReserved i

/-- A word made of an opcode and a number above it. -/
theorem opcode_or_shift (op : Byte) (n : Nat) (hn : n < 2 ^ 24) :
    opcodeOf (op.zeroExtend 32 ||| (BitVec.ofNat 32 n <<< 8)) = op
      ∧ (op.zeroExtend 32 ||| (BitVec.ofNat 32 n <<< 8)).toNat = 2 ^ 8 * n + op.toNat := by
  have hw : (op.zeroExtend 32 ||| (BitVec.ofNat 32 n <<< 8)).toNat = 2 ^ 8 * n + op.toNat := by
    have := op.isLt
    simp only [BitVec.toNat_or, BitVec.toNat_shiftLeft, BitVec.toNat_setWidth, BitVec.toNat_ofNat,
      Nat.shiftLeft_eq]
    rw [Nat.mod_eq_of_lt (a := n) (by omega), Nat.mod_eq_of_lt (a := op.toNat) (by omega),
      Nat.mod_eq_of_lt (by omega), Nat.or_comm, Nat.mul_comm n, ← Nat.two_pow_add_eq_or_of_lt (by omega)]
  refine ⟨?_, hw⟩
  apply BitVec.eq_of_toNat_eq
  have := op.isLt
  rw [opcodeOf, BitVec.extractLsb'_toNat, hw, Nat.shiftRight_zero]
  omega

theorem nop : Statement .nop := fun _ => by decide

theorem build : Statement .build := fun _ => by decide

theorem slice (start len : Nat) : Statement (.slice start len) := fun h => by
  have ⟨hs, hl⟩ : start < 256 ∧ len < 64 := by simpa [Instr.WellFormed, Instr.wellFormed] using h
  have hn : BitVec.ofNat 32 start <<< 8 ||| BitVec.ofNat 32 len <<< 16
      = BitVec.ofNat 32 (2 ^ 8 * len + start) <<< 8 := by
    apply BitVec.eq_of_toNat_eq
    simp only [BitVec.toNat_or, BitVec.toNat_shiftLeft, BitVec.toNat_ofNat, Nat.shiftLeft_eq]
    rw [Nat.mod_eq_of_lt (a := start) (by omega), Nat.mod_eq_of_lt (a := len) (by omega),
      Nat.mod_eq_of_lt (a := 2 ^ 8 * len + start) (by omega), Nat.mod_eq_of_lt (by omega),
      Nat.mod_eq_of_lt (by omega), Nat.mod_eq_of_lt (by omega), Nat.or_comm, Nat.mul_comm len,
      ← Nat.two_pow_add_eq_or_of_lt (by omega)]
    omega
  have he : encode (.slice start len)
      = (2 : Byte).zeroExtend 32 ||| BitVec.ofNat 32 (2 ^ 8 * len + start) <<< 8 := by
    rw [← hn, ← BitVec.or_assoc]
    rfl
  have ⟨h1, h2⟩ := opcode_or_shift 2 (2 ^ 8 * len + start) (by omega)
  rw [he]
  refine ⟨h1, ?_⟩
  rw [h2]
  simp only [firstReserved]
  have : (2 : Byte).toNat = 2 := rfl
  omega

theorem decode : Statement .decode := fun _ => by decide

theorem xloc (idx : Nat) : Statement (.xloc idx) := fun h => by
  have hn : idx < 64 := by simpa [Instr.WellFormed, Instr.wellFormed] using h
  have ⟨h1, h2⟩ := opcode_or_shift 4 idx (by omega)
  refine ⟨h1, ?_⟩
  rw [show encode (.xloc idx) = (4 : Byte).zeroExtend 32 ||| BitVec.ofNat 32 idx <<< 8 from rfl, h2]
  have : (4 : Byte).toNat = 4 := rfl
  simp only [firstReserved]
  omega

theorem xltot (raw : Nat) : Statement (.xltot raw) := fun h => by
  have hn : raw < 1024 := by simpa [Instr.WellFormed, Instr.wellFormed] using h
  have ⟨h1, h2⟩ := opcode_or_shift 5 raw (by omega)
  refine ⟨h1, ?_⟩
  rw [show encode (.xltot raw) = (5 : Byte).zeroExtend 32 ||| BitVec.ofNat 32 raw <<< 8 from rfl, h2]
  have : (5 : Byte).toNat = 5 := rfl
  simp only [firstReserved]
  omega

theorem xdate (off : Nat) : Statement (.xdate off) := fun h => by
  have hn : off < 512 := by simpa [Instr.WellFormed, Instr.wellFormed] using h
  have ⟨h1, h2⟩ := opcode_or_shift 6 off (by omega)
  refine ⟨h1, ?_⟩
  rw [show encode (.xdate off) = (6 : Byte).zeroExtend 32 ||| BitVec.ofNat 32 off <<< 8 from rfl, h2]
  have : (6 : Byte).toNat = 6 := rfl
  simp only [firstReserved]
  omega

theorem ttsel (k : Nat) : Statement (.ttsel k) := fun h => by
  have hn : k < 65536 := by simpa [Instr.WellFormed, Instr.wellFormed] using h
  have ⟨h1, h2⟩ := opcode_or_shift 7 k (by omega)
  refine ⟨h1, ?_⟩
  rw [show encode (.ttsel k) = (7 : Byte).zeroExtend 32 ||| BitVec.ofNat 32 k <<< 8 from rfl, h2]
  have : (7 : Byte).toNat = 7 := rfl
  simp only [firstReserved]
  omega

theorem clrerr : Statement .clrerr := fun _ => by decide

theorem sreset : Statement .sreset := fun _ => by decide

end Sys2Proof.Laws.EncodedFormat
end

