-- ==== Sys2Proof/Laws/Reference.lean ====
section
/-! SUPPORT. The loader of the reference file: what a line gives, what a file leaves at a key, and the name a
document leaves at a code (43_decode_resolve.md R149). -/

namespace Sys2Proof.RefIndex

open Sys2Proof.Machine

/-- A line gives its key and code, or is too short to have them. -/
theorem parseLine_cases (text : List Byte) :
    (text.length < 101 ∧ parseLine text = none) ∨ ∃ kc : LtotKey × TicketCode, 101 ≤ text.length
      ∧ parseLine text = some kc ∧ lineCode text = some kc.2
      ∧ ∀ key, lineHasKey key text = true ↔ kc.1 = key := by
  unfold parseLine
  split
  · rename_i a b c r1 x y r2 h1 h2
    have hl := congrArg List.length h2
    have g1 (i : Nat) : text[i + 1]? = (a :: b :: c :: r1)[i]? := by rw [← h1]; simp
    have g2 (i : Nat) : text[i + 99]? = (x :: y :: r2)[i]? := by rw [← h2]; simp [Nat.add_comm]
    have e1 : text[1]? = some a := g1 0
    have e2 : text[2]? = some b := g1 1
    have e3 : text[3]? = some c := g1 2
    have e4 : text[99]? = some x := g2 0
    have e5 : text[100]? = some y := g2 1
    refine .inr ⟨(⟨x, y⟩, ⟨a, b, c⟩), ?_, rfl, ?_, ?_⟩
    · simp at hl
      omega
    · rw [lineCode, e1, e2, e3]
    · intro key
      cases key
      simp [lineHasKey, e4, e5]
  · rename_i hn
    refine .inl ⟨?_, rfl⟩
    by_contra hl
    have d (n : Nat) (h : n < text.length) : text.drop n = text[n] :: text.drop (n + 1) :=
      List.drop_eq_getElem_cons h
    exact hn _ _ _ _ _ _ _ ((d 1 (by omega)).trans (by rw [d 2 (by omega), d 3 (by omega)]))
      ((d 99 (by omega)).trans (by rw [d 100 (by omega)]))

/-- What a list of pairs has at a key, none being the empty list. -/
def codesAt (types : List (LtotKey × List TicketCode)) (key : LtotKey) : List TicketCode :=
  (types.lookup key).getD []

/-- A code appended shows at its key alone, after the others. -/
theorem codesAt_appendCode (k key : LtotKey) (code : TicketCode)
    (types : List (LtotKey × List TicketCode)) :
    codesAt (appendCode k code types) key
      = if k = key then codesAt types key ++ [code] else codesAt types key := by
  induction types with
  | nil =>
    by_cases h : k = key
    · subst h
      simp [appendCode, codesAt]
    · have : (key == k) = false := by simpa using fun e => h e.symm
      simp [appendCode, codesAt, List.lookup, this, h]
  | cons e rest ih =>
    obtain ⟨k', codes⟩ := e
    by_cases h : k' = k
    · subst h
      by_cases h' : k' = key
      · subst h'
        simp [appendCode, codesAt]
      · have : (key == k') = false := by simpa using fun e => h' e.symm
        simp [appendCode, codesAt, List.lookup, this, h']
    · by_cases h' : key = k'
      · subst h'
        have hk : k ≠ key := fun e => h e.symm
        simp [appendCode, codesAt, h, hk]
      · have hb : (key == k') = false := by simpa using h'
        simp only [codesAt, appendCode, if_neg h, List.lookup, hb] at ih ⊢
        exact ih

/-- The lines of a file that are no comments. -/
theorem isComment_iff (line : List Byte) : isComment line = true ↔ line.head? = some 0x2F := by
  rw [isComment, beq_iff_eq]

/-- What a file adds at a key: its lines' codes, in file order (R149). -/
theorem codesAt_collectLines (key : LtotKey) (lines : List (List Byte)) :
    ∀ types types', collectLines types lines = some types' →
      codesAt types' key = codesAt types key
        ++ ((lines.filter fun x => x.head? ≠ some 0x2F).filter (lineHasKey key)).filterMap lineCode := by
  induction lines with
  | nil =>
    intro types types' h
    cases h
    simp
  | cons line rest ih =>
    intro types types' h
    rw [collectLines] at h
    by_cases hc : isComment line = true
    · rw [if_pos hc] at h
      rw [ih _ _ h, List.filter_cons_of_neg (by simpa using (isComment_iff line).1 hc)]
    · rw [if_neg hc] at h
      have hh : line.head? ≠ some 0x2F := fun e => hc ((isComment_iff line).2 e)
      rw [List.filter_cons_of_pos (by simpa using hh)]
      rcases parseLine_cases line with ⟨-, hp⟩ | ⟨⟨k, code⟩, -, hp, hcode, hkey⟩
      · rw [hp] at h
        cases h
      · rw [hp] at h
        rw [ih _ _ h, codesAt_appendCode]
        by_cases hk : k = key
        · rw [if_pos hk, List.filter_cons_of_pos ((hkey key).2 hk), List.filterMap_cons, hcode]
          simp
        · rw [if_neg hk, List.filter_cons_of_neg (by simpa using fun e => hk ((hkey key).1 e))]

/-- A file is refused exactly where a line that is no comment is too short (DESIGN CHOICE, assumption 15). -/
theorem collectLines_eq_none_iff (lines : List (List Byte)) : ∀ types,
    collectLines types lines = none
      ↔ ∃ x ∈ lines.filter (fun x => x.head? ≠ some 0x2F), x.length < 101 := by
  induction lines with
  | nil => simp [collectLines]
  | cons line rest ih =>
    intro types
    rw [collectLines]
    by_cases hc : isComment line = true
    · rw [if_pos hc, ih, List.filter_cons_of_neg (by simpa using (isComment_iff line).1 hc)]
    · rw [if_neg hc, List.filter_cons_of_pos
        (by simpa using fun e => hc ((isComment_iff line).2 e))]
      rcases parseLine_cases line with ⟨hl, hp⟩ | ⟨⟨k, code⟩, hl, hp, -, -⟩
      · rw [hp]
        simp [hl]
      · rw [hp]
        simp only [ih, List.exists_mem_cons_iff]
        constructor
        · exact .inr
        · rintro (h | h)
          · omega
          · exact h

/-- A code appended lengthens one list by one. -/
theorem appendCode_length_le (k : LtotKey) (code : TicketCode) (n : Nat)
    (types : List (LtotKey × List TicketCode)) (h : ∀ e ∈ types, e.2.length ≤ n) :
    ∀ e ∈ appendCode k code types, e.2.length ≤ n + 1 := by
  induction types with
  | nil =>
    simp only [appendCode, List.forall_mem_singleton]
    simp
  | cons e rest ih =>
    obtain ⟨k', codes⟩ := e
    rw [List.forall_mem_cons] at h
    rw [appendCode]
    split
    · rw [List.forall_mem_cons, List.length_append]
      exact ⟨Nat.add_le_add_right h.1 1, fun e he => Nat.le_succ_of_le (h.2 e he)⟩
    · rw [List.forall_mem_cons]
      exact ⟨Nat.le_succ_of_le h.1, ih h.2⟩

/-- A file's lists are no longer than its lines that are no comments are many. -/
theorem collectLines_length_le (lines : List (List Byte)) : ∀ types types' n,
    collectLines types lines = some types' → (∀ e ∈ types, e.2.length ≤ n) →
      ∀ e ∈ types', e.2.length ≤ n + (lines.filter fun x => x.head? ≠ some 0x2F).length := by
  induction lines with
  | nil =>
    intro types types' n h hn
    cases h
    exact hn
  | cons line rest ih =>
    intro types types' n h hn
    rw [collectLines] at h
    by_cases hc : isComment line = true
    · rw [if_pos hc] at h
      rw [List.filter_cons_of_neg (by simpa using (isComment_iff line).1 hc)]
      exact ih _ _ _ h hn
    · rw [if_neg hc] at h
      rw [List.filter_cons_of_pos (by simpa using fun e => hc ((isComment_iff line).2 e)),
        List.length_cons, Nat.add_comm _ 1, ← Nat.add_assoc]
      split at h
      · cases h
      · exact ih _ _ _ h (appendCode_length_le _ _ _ _ hn)

/-- Among pairs, the first with a key from the end is the last (R149: the last entry wins). -/
theorem lookup_reverse_eq_some_iff {β : Type} (entries : List (TicketCode × β)) (c : TicketCode)
    (n : β) : entries.reverse.lookup c = some n
      ↔ ∃ before later, entries = before ++ (c, n) :: later ∧ ∀ m, (c, m) ∉ later := by
  rw [List.lookup_eq_some_iff]
  constructor
  · rintro ⟨l1, l2, h, hn⟩
    refine ⟨l2.reverse, l1.reverse, by rw [← List.reverse_reverse entries, h]; simp, ?_⟩
    intro m hm
    have := hn _ (List.mem_reverse.1 hm)
    simp at this
  · rintro ⟨before, later, rfl, hn⟩
    refine ⟨later.reverse, before.reverse, by simp, ?_⟩
    rintro ⟨c', m⟩ hm
    simp only [bne_iff_ne, ne_eq]
    rintro rfl
    exact hn m (List.mem_reverse.1 hm)

end Sys2Proof.RefIndex
end

