-- ==== Sys2Proof/Tests/Slice0.lean ====
section
/-! SUPPORT. Small tests, their expected results from 95_test_vectors.md (the vector's id in the docstring) or
worked out by hand from the rule named, and the witnesses of the statements' hypotheses. -/

namespace Sys2Proof.Tests

open Sys2Proof.Machine

/-! ## The states the tests start from -/

/-- The three characters of a code. -/
def code3 (a b c : Char) : TicketCode := ⟨Alphabet.chr a, Alphabet.chr b, Alphabet.chr c⟩

/-- The illustrative reference index `R_ILL` of 95_test_vectors.md. -/
def illustrativeIndex : RefIndex where
  ltotToTicketTypes :=
    [(⟨0x41, 0x45⟩, [code3 'S' 'O' 'S', code3 'S' 'O' 'R', code3 'S' 'O' 'S']),
      (⟨0x41, 0x41⟩, [code3 'C' 'D' 'S'])]
  ticketTypeToName := [(code3 'S' 'O' 'S', "name-1"), (code3 'C' 'D' 'S', "name-2")]

/-- The reset state with `R_ILL`, and `EPOCH_DATE` = 2000-01-01 unless another is given. -/
def start (epoch : Epoch := ⟨⟨2000, 1, 1⟩, by decide⟩) : State :=
  { State.reset with params := ⟨0x40000000, epoch, illustrativeIndex⟩ }

/-- `start` with a record. -/
def withRecord (w0 w1 w2 w3 : Word) (w4 : BitVec 24) : State :=
  { start with rec0 := w0, rec1 := w1, rec2 := w2, rec3 := w3, rec4 := w4 }

/-- The golden record of 95_test_vectors.md E13. -/
def golden : State := withRecord 0x2011AA41 0x984100D7 0x000800C8 0x40048001 0x20AB26

/-- The sequence of the golden record, vector BR12. -/
def goldenSeq : Seq := 0x82558804EB008219130010008001200264D504

/-- The golden record after BUILD. -/
def built : State := { golden with seq := goldenSeq, status := ⟨true, false, false, false, 0, 0, 0⟩ }

/-- A state whose TT_LIST has the entries of the example of 43_decode_resolve.md R148. -/
def twoTickets : State :=
  { start with ttCount := 2, ttList := [⟨code3 'S' 'O' 'S', true⟩, ⟨code3 'X' 'Y' 'Z', false⟩] }

/-- A state with one host event issued. -/
def issued (e : HostEvent) : State := { start with pending := [e] }

/-- A question about the next state; false for a step that stops. -/
def after (o : Result) (p : State → Bool) : Bool :=
  match o with
  | .next t => p t
  | .fault _ => false
  | .refused _ => false

/-! ## WellFormed: each check refuses an ill-formed command (30_encoding.md R76) -/

theorem test_wellFormed_slice_start : (Instr.slice 256 1).wellFormed = false := by decide

theorem test_wellFormed_slice_len : (Instr.slice 24 64).wellFormed = false := by decide

theorem test_wellFormed_xloc : (Instr.xloc 64).wellFormed = false := by decide

theorem test_wellFormed_xltot : (Instr.xltot 1024).wellFormed = false := by decide

theorem test_wellFormed_xdate : (Instr.xdate 512).wellFormed = false := by decide

theorem test_wellFormed_ttsel : (Instr.ttsel 65536).wellFormed = false := by decide

/-! ## Decoding: words written out bit by bit from 30_encoding.md R71 -/

theorem test_decode_nop : decode 0b00000000_00000000_00000000_00000000#32 = .ok .nop := by decide

theorem test_decode_build : decode 0b00000000_00000000_00000000_00000001#32 = .ok .build := by decide

/-- LEN = 5 in [21:16], START = 171 in [15:8]. -/
theorem test_decode_slice :
    decode 0b0000000000_000101_10101011_00000010#32 = .ok (.slice 171 5) := by decide

theorem test_decode_decode : decode 0b00000000_00000000_00000000_00000011#32 = .ok .decode := by decide

/-- IDX = 33 in [13:8]. -/
theorem test_decode_xloc : decode 0b000000000000000000_100001_00000100#32 = .ok (.xloc 33) := by decide

/-- RAW = 825 in [17:8]. -/
theorem test_decode_xltot :
    decode 0b00000000000000_1100111001_00000101#32 = .ok (.xltot 825) := by decide

/-- OFF = 257 in [16:8]. -/
theorem test_decode_xdate :
    decode 0b000000000000000_100000001_00000110#32 = .ok (.xdate 257) := by decide

/-- K = 32769 in [23:8]. -/
theorem test_decode_ttsel :
    decode 0b00000000_1000000000000001_00000111#32 = .ok (.ttsel 32769) := by decide

theorem test_decode_clrerr : decode 0b00000000_00000000_00000000_00001000#32 = .ok .clrerr := by decide

theorem test_decode_sreset : decode 0b00000000_00000000_00000000_00001001#32 = .ok .sreset := by decide

/-- CT2: opcode 0x0A. -/
theorem test_decode_undefined_opcode : decode 0x0000000A = .error (.undefinedOpcode 0x0A) := by decide

/-- CT5: SLICE with reserved bit 22. -/
theorem test_decode_reserved_slice : decode 0x00400002 = .error (.reservedBits 0x02) := by decide

/-- XL9, LT11, DT29, TT6: the lowest reserved bit of formats I6, I10, I9 and K. -/
theorem test_decode_reserved_others :
    decode 0x00004004 = .error (.reservedBits 0x04) ∧ decode 0x00040005 = .error (.reservedBits 0x05)
      ∧ decode 0x00020006 = .error (.reservedBits 0x06)
      ∧ decode 0x01000007 = .error (.reservedBits 0x07) := by decide

/-- The words of the EXTRACT rows of 30_encoding.md R78. -/
theorem test_extract_words :
    ((List.finRange 11).map fun k => encode (extractCommand k))
      = [0x0005AB02, 0x000AA102, 0x00059C02, 0x000A9202, 0x000B8702, 0x000A7D02, 0x00077602,
          0x00017502, 0x000B7402, 0x00026802, 0x00092102] := by decide

/-! ## BUILD -/

/-- BR6 and BR9. -/
theorem test_reverse8 : reverse8 0x12 = 0x48 ∧ reverse8 0xD7 = 0xEB := by decide

/-- BR12. -/
theorem test_build_golden :
    after (exec .build golden) (fun t => t.seq = goldenSeq && t.status.word = 1) = true := by decide

/-- BR14: record bytes 5 and 6 are FE and 07. -/
theorem test_build_one_field :
    after (exec .build (withRecord 0 0x0007FE00 0 0 0))
      (fun t => t.seq = 0x00000000007FE0000000000000000000000000) = true := by decide

/-! ## SLICE -/

/-- SL2, SL4, SL9, SL11. -/
theorem test_slice_rows :
    after (exec (.slice 161 10) built) (fun t => t.result = 298 && t.status.word = 1) = true
      ∧ after (exec (.slice 146 10) built) (fun t => t.result = 513) = true
      ∧ after (exec (.slice 116 11) built) (fun t => t.result = 33) = true
      ∧ after (exec (.slice 33 9) built) (fun t => t.result = 106) = true := by decide

/-- SL12, SL18, SL21, SL23: an empty field, the first bit, the widest fields. -/
theorem test_slice_edges :
    after (exec (.slice 24 0) built) (fun t => t.result = 0 && t.status.word = 1) = true
      ∧ after (exec (.slice 175 1) built) (fun t => t.result = 1) = true
      ∧ after (exec (.slice 24 32) built) (fun t => t.result = 0x0264D504) = true
      ∧ after (exec (.slice 120 32) built) (fun t => t.result = 0x04EB0082) = true := by decide

/-- SL14, SL16, SL25, SL28: FIELD_RANGE at both ends, OPERAND_RANGE before it, NO_SEQUENCE before both. -/
theorem test_slice_errors :
    after (exec (.slice 177 0) built) (fun t => t.result = 0 && t.status.word = 0x0000FF19) = true
      ∧ after (exec (.slice 23 1) built) (fun t => t.status.word = 0x0000FF19) = true
      ∧ after (exec (.slice 24 33) built) (fun t => t.status.word = 0x0000FF59) = true
      ∧ after (exec (.slice 24 33) start) (fun t => t.status.word = 0x0000FF48) = true := by decide

/-! ## XLOC, XLTOT, XDATE -/

/-- XL2, XL3, XL6. -/
theorem test_xloc :
    after (exec (.xloc 9) start) (fun t => t.result = 0x39 && t.status.word = 0) = true
      ∧ after (exec (.xloc 10) start) (fun t => t.result = 0x41) = true
      ∧ after (exec (.xloc 31) start) (fun t => t.result = 0x56) = true := by decide

/-- XL7. -/
theorem test_xloc_range :
    after (exec (.xloc 32) built) (fun t => t.result = 0 && t.status.word = 0x0000FF29) = true := by decide

/-- LT2, LT4, LT6. -/
theorem test_xltot :
    after (exec (.xltot 4) start) (fun t => t.result = 0x4541) = true
      ∧ after (exec (.xltot 32) start) (fun t => t.result = 0x4142) = true
      ∧ after (exec (.xltot 825) start) (fun t => t.result = 0x5A5A) = true := by decide

/-- LT7, LT9, LT10. -/
theorem test_xltot_halves :
    after (exec (.xltot 26) start) (fun t => t.status.word = 0x0002FF28) = true
      ∧ after (exec (.xltot 832) start) (fun t => t.status.word = 0x0001FF28) = true
      ∧ after (exec (.xltot 1023) start) (fun t => t.status.word = 0x0003FF28) = true := by decide

/-- DT5, DT7, DT10. -/
theorem test_xdate :
    after (exec (.xdate 59) start) (fun t => t.result = 0x07D0021D) = true
      ∧ after (exec (.xdate 106) start) (fun t => t.result = 0x07D00410) = true
      ∧ after (exec (.xdate 365) start) (fun t => t.result = 0x07D00C1F) = true := by decide +kernel

/-- DT19 and DT26: 1900 is no leap year, 2024 is one. -/
theorem test_xdate_leap :
    after (exec (.xdate 1) (start ⟨⟨1900, 2, 28⟩, by decide⟩)) (fun t => t.result = 0x076C0301) = true
      ∧ after (exec (.xdate 1) (start ⟨⟨2024, 2, 28⟩, by decide⟩)) (fun t => t.result = 0x07E8021D) = true := by
  decide

/-! ## DECODE and TTSEL -/

/-- DC1: the codes, the date, the count and STATUS. -/
theorem test_decode_golden :
    after (exec .decode golden) (fun t =>
      t.origCode = 0x0047012A && t.destCode = 0x004F0201 && t.ltotCode = 0x4541
        && t.expiry = 0x07D00410 && t.ttCount = 3 && t.ttCode = 0 && t.status.word = 7
        && t.ttList.map TicketEntry.known = [true, false, true]) = true := by decide +kernel

/-- DC1: the eleven FIELD registers. -/
theorem test_decode_golden_fields :
    after (exec .decode golden) (fun t => t.fields.toList
      = [0x10, 0x12A, 0x18, 0x201, 0x1D6, 0x4, 0x8, 0x0, 0x21, 0x3, 0x6A]) = true := by decide

/-- DC9: a failing DECODE after a record was decoded zeroes its results; SEQ is rebuilt. -/
theorem test_decode_failure :
    after (exec .decode { golden with
        rec1 := 0x0002C000, origCode := 5, ttCount := 1, status := ⟨true, true, true, false, 0, 0, 0⟩ })
      (fun t => t.status.word = 0x00020529 && t.origCode = 0 && t.ttCount = 0
        && t.fields.toList = List.replicate 11 0) = true := by decide

/-- DC7: LTOT "ZZ" is absent from the index, which is no error. -/
theorem test_decode_absent_key :
    after (exec .decode (withRecord 0 0x0004E600 0 0 0)) (fun t =>
      t.status.word = 3 && t.ltotCode = 0x5A5A && t.ttCount = 0 && t.fields.dateMode = 0x200) = true := by
  decide

/-- The layout whose origin prefix is 6 bits wide, the misconfiguration of source example E5: 60 is no
location index (42_domain_luts.md R120). -/
def widePrefix : Layout :=
  { Layout.default with table := { Layout.default.table with origPfx := ⟨170, 6⟩ } }

theorem test_decode_wide_prefix :
    decodeSeq widePrefix start.params (0xF0#152 <<< 144) = .error ⟨.alphabetRange, 0, 0⟩ := by decide

/-- A layout with rows 1 and 3 out of range: the lower is reported (43_decode_resolve.md R140). -/
def badRows : Layout :=
  { Layout.default with
    table := { Layout.default.table with origSfx := ⟨23, 1⟩, destSfx := ⟨176, 1⟩ } }

theorem test_decode_bad_rows :
    decodeSeq badRows start.params 0 = .error ⟨.fieldRange, 1, 0⟩ := by decide

/-- TT8, and KNOWN and SEL_VALID of TT1. -/
theorem test_ttsel :
    after (exec (.ttsel 1) twoTickets) (fun t => t.ttCode = 0x805A5958 && t.status.word = 0) = true
      ∧ after (exec (.ttsel 0) twoTickets) (fun t => t.ttCode = 0x81534F53) = true := by decide

/-- TT4's error; TT_CODE stays. -/
theorem test_ttsel_range :
    after (exec (.ttsel 2) { twoTickets with ttCode := 0x805A5958 })
      (fun t => t.ttCode = 0x805A5958 && t.status.word = 0x0000FF58) = true := by decide

/-! ## Control commands and the bus -/

/-- The worked examples of 44_control.md R160 and R161, from STATUS = 0x0000FF39. -/
theorem test_nop_clrerr :
    after (exec .nop { built with status := ⟨true, false, false, true, 3, 0xFF, 0⟩ })
        (fun t => t.status.word = 0x00000009) = true
      ∧ after (exec .clrerr { built with status := ⟨true, false, false, true, 3, 0xFF, 0⟩ })
        (fun t => t.status.word = 0x00000001) = true := by decide

/-- CT11. -/
theorem test_sreset :
    after (exec .sreset built) (fun t => t.status.word = 0 && t.rec0 = 0 && t.seq = 0) = true := by decide

/-- CT4: an illegal word does not rebuild SEQ. -/
theorem test_illegal_word :
    after (step { built with rec0 := 0, pending := [.write 4 0x04 0x00000101] })
      (fun t => t.status.word = 0x0000FF39 && t.seq = goldenSeq) = true := by decide

/-- BU1, BU2, BU3: ID, CMD and a reserved offset. -/
theorem test_bus_reads :
    after (step (issued (.read 4 0x00))) (fun t => t.readLog = [0x3144534D]) = true
      ∧ after (step (issued (.read 4 0x04))) (fun t => t.readLog = [0]) = true
      ∧ after (step (issued (.read 4 0x0C))) (fun t => t.readLog = [0]) = true := by decide

/-- BU5 and BU7: REC4[31:24] does not exist, RESULT ignores writes. -/
theorem test_bus_writes :
    after (step (issued (.write 4 0x20 0xFF20AB26))) (fun t => t.readReg 0x20 = 0x0020AB26) = true
      ∧ after (step (issued (.write 4 0x98 0x12345678))) (fun t => t.readReg 0x98 = 0) = true := by decide

/-- BU9: a 16-bit read at 0x00 and a 32-bit read at 0x02 are refused. -/
theorem test_bus_refuses :
    after (step (issued (.read 2 0x00))) (fun _ => true) = false
      ∧ after (step (issued (.read 4 0x02))) (fun _ => true) = false := by decide

/-- The first step after reset runs the word placed for it: BUILD from reset sets SEQ_VALID. -/
theorem test_withFetchWord :
    after (step (State.reset.withFetchWord 32 0x00000001)) (fun t => t.status.word = 1) = true
      ∧ decodeTableWord 32 0x00092102 = some (.slice 33 9) := by decide

/-! ## The host's side and the reference file -/

/-- E13: the five writes LOADREC of the golden text stands for. -/
theorem test_loadrec :
    loadRec ['4', '1', 'A', 'A', '1', '1', '2', '0', 'D', '7', '0', '0', '4', '1', '9', '8', 'C', '8', '0',
        '0', '0', '8', '0', '0', '0', '1', '8', '0', '0', '4', '4', '0', '2', '6', 'A', 'B', '2', '0']
      = some [.write 4 0x10 0x2011AA41, .write 4 0x14 0x984100D7, .write 4 0x18 0x000800C8,
          .write 4 0x1C 0x40048001, .write 4 0x20 0x0020AB26] := by rfl

/-- E12: a text that is not 38 hex digits is refused. -/
theorem test_loadrec_refuses :
    loadRec (List.replicate 37 '0') = none ∧ loadRec (List.replicate 38 'G') = none := ⟨rfl, rfl⟩

/-- A reference-file line: the code at [1,4), the key at [99,101) (43_decode_resolve.md R149). -/
def referenceLine (a b c x y : Byte) : List Byte :=
  [0x52, a, b, c] ++ List.replicate 95 0x20 ++ [x, y, 0x20]

/-- R149: two lines of one key and a comment line, in file order. -/
theorem test_reference_file :
    ((RefIndex.ofReference
        [referenceLine 0x53 0x4F 0x53 0x41 0x45, [0x2F], referenceLine 0x53 0x4F 0x52 0x41 0x45] []).map
      fun r => r.lookupTypes ⟨0x41, 0x45⟩) = some [⟨0x53, 0x4F, 0x53⟩, ⟨0x53, 0x4F, 0x52⟩] := by rfl

/-! ## Witnesses: states and operands that meet the hypotheses of the statements -/

/-- The golden record after DECODE, every register as vector DC1 lists it. -/
def decodedGolden : State :=
  { golden with
    status := ⟨true, true, true, false, 0, 0, 0⟩
    seq := goldenSeq
    fields := ⟨0x10, 0x12A, 0x18, 0x201, 0x1D6, 0x4, 0x8, 0x0, 0x21, 0x3, 0x6A⟩
    origCode := 0x0047012A
    destCode := 0x004F0201
    ltotCode := 0x4541
    expiry := 0x07D00410
    ttCount := 3
    ttList := [⟨code3 'S' 'O' 'S', true⟩, ⟨code3 'S' 'O' 'R', false⟩, ⟨code3 'S' 'O' 'S', true⟩] }

/-- DC1 meets the register invariant, with DEC_VALID 1 (StepKeepsConsistency, ReservedBitsReadZero,
ExpiryHoldsADate, TtselReachesEveryEntry). -/
theorem witness_consistent_decoded : decodedGolden.Consistent where
  errCode_le := by decide
  noError := by decide
  errorSticky := by decide
  errField_range := by decide
  errSub_kind := by decide
  seq_unbuilt := by decide
  decoded_built := by decide
  notDecoded := by decide
  field_width := by decide
  decoded := fun _ => by decide +kernel
  count := by decide
  count_bound := by decide
  selected := .inl rfl
  warned := by decide

/-- The golden record after BUILD meets it with DEC_VALID 0 (the other clause of ExpiryHoldsADate). -/
theorem witness_consistent_built : built.Consistent where
  errCode_le := by decide
  noError := by decide
  errorSticky := by decide
  errField_range := by decide
  errSub_kind := by decide
  seq_unbuilt := by decide
  decoded_built := by decide
  notDecoded := by decide
  field_width := by decide
  decoded := by decide
  count := by decide
  count_bound := by decide
  selected := .inl rfl
  warned := by decide

/-- A step from DC1 answers a next state (StepKeepsConsistency, NothingWritesTheParameters). -/
theorem witness_step_keeps : decodedGolden.Consistent ∧ step decodedGolden = .next decodedGolden :=
  ⟨witness_consistent_decoded, rfl⟩

/-- TtselReachesEveryEntry and TtselShowsTheEntry at the last entry of DC1. -/
theorem witness_ttsel :
    decodedGolden.Consistent ∧ 2 < decodedGolden.ttCount.toNat
      ∧ decodedGolden.ttList[2]? = some ⟨code3 'S' 'O' 'S', true⟩ :=
  ⟨witness_consistent_decoded, by decide, by decide⟩

/-- TtselRejectsLargeIndexes at the first index out of range. -/
theorem witness_ttsel_range : decodedGolden.ttCount.toNat ≤ 3 := by decide

/-- DecodeOfEncodeIsTheCommand: every operand at its largest value. -/
theorem witness_wellFormed :
    (Instr.slice 255 63).WellFormed ∧ (Instr.xloc 63).WellFormed ∧ (Instr.xltot 1023).WellFormed
      ∧ (Instr.xdate 511).WellFormed ∧ (Instr.ttsel 65535).WellFormed := by decide

/-- EncodeOfDecodeIsTheWord, StepRunsTheDecodedCommand. -/
theorem witness_step_runs :
    (issued (.write 4 0x04 0x00092102)).pending = .write 4 0x04 0x00092102 :: []
      ∧ decode 0x00092102 = .ok (.slice 33 9) := by decide

/-- DecoderFollowsTheOpcodeMap: a word of each reason to reject, the first opcode with none, and a word that
is a command. -/
theorem witness_opcode_map :
    9 < (0x0000000A : Word).toNat % 256 ∧ (0x00000109 : Word).toNat % 256 = 9
      ∧ (0x00000109 : Word) &&& 0xFFFFFF00 ≠ 0 ∧ (0x00FFFF07 : Word).toNat % 256 = 7
      ∧ (0x00FFFF07 : Word) &&& 0xFF000000 = 0 := by decide

/-- IllegalCommandOnlyRecordsTheError. -/
theorem witness_illegal :
    (issued (.write 4 0x04 0x0000000A)).pending = .write 4 0x04 0x0000000A :: []
      ∧ decode 0x0000000A = .error (.undefinedOpcode 0x0A) := by decide

/-- BlockWaitsForTheHost. -/
theorem witness_waits : start.pending = [] := rfl

/-- EveryModelledEventCompletes, ReadsHaveNoSideEffect. -/
theorem witness_read :
    (issued (.read 4 0x08)).pending = .read 4 0x08 :: [] ∧ (0x08 : BitVec 8).toNat % 4 = 0
      ∧ HostEvent.modelled (.read 4 0x08) = true := by decide

/-- EveryModelledEventCompletes, its hypothesis as stated. -/
theorem witness_modelled :
    ∀ e, (issued (.read 4 0x08)).pending.head? = some e → e.modelled = true := by
  intro e h
  cases h
  decide

/-- EveryRegisterReadsAtItsOffset, at the first, a middle and the last register, from DC1 (R22). -/
theorem witness_register_map :
    (issued (.read 4 0x98)).pending = .read 4 0x98 :: []
      ∧ after (step { decodedGolden with pending := [.read 4 0x00] }) (fun t => t.readLog = [0x3144534D])
      ∧ after (step { decodedGolden with pending := [.read 4 0x84] }) (fun t => t.readLog = [0x004F0201])
      ∧ after (step { decodedGolden with result := 7, pending := [.read 4 0x98] })
        (fun t => t.readLog = [7]) := by decide

/-- RecordWritesReadBack, at the first and the last REC register. -/
theorem witness_record_write :
    (issued (.write 4 0x10 7)).pending = .write 4 0x10 7 :: []
      ∧ (0x10 : BitVec 8) ∈ ([0x10, 0x14, 0x18, 0x1C, 0x20] : List (BitVec 8))
      ∧ (issued (.write 4 0x20 0xFF000007)).pending = .write 4 0x20 0xFF000007 :: []
      ∧ (0x20 : BitVec 8) ∈ ([0x10, 0x14, 0x18, 0x1C, 0x20] : List (BitVec 8)) := by decide

/-- ReservedAndReadOnlyAccesses, reads: CMD and the ends of each reserved range. -/
theorem witness_reserved_reads :
    ([0x04, 0x0C, 0x24, 0x3C, 0x6C, 0x7C, 0x9C, 0xFC] : List (BitVec 8)).all (fun off =>
      decide (off.toNat % 4 = 0)
        && decide ((off.toNat = 0x0C ∨ (0x24 ≤ off.toNat ∧ off.toNat ≤ 0x3C)
          ∨ (0x6C ≤ off.toNat ∧ off.toNat ≤ 0x7C) ∨ 0x9C ≤ off.toNat) ∨ off.toNat = 0x04)
        && after (step { decodedGolden with pending := [.read 4 off] })
          (fun t => t.readLog = [0] && t.status.word = 7)) = true := by decide

/-- ReservedAndReadOnlyAccesses, writes: the ends of each read-only and each reserved range. -/
theorem witness_ignored_writes :
    ([0x00, 0x08, 0x40, 0x68, 0x80, 0x98, 0x0C, 0x24, 0x3C, 0x6C, 0x7C, 0x9C, 0xFC] : List (BitVec 8)).all
      (fun off => decide (off.toNat % 4 = 0)
        && decide ((off.toNat = 0x0C ∨ (0x24 ≤ off.toNat ∧ off.toNat ≤ 0x3C)
            ∨ (0x6C ≤ off.toNat ∧ off.toNat ≤ 0x7C) ∨ 0x9C ≤ off.toNat)
          ∨ (off.toNat = 0x00 ∨ off.toNat = 0x08 ∨ (0x40 ≤ off.toNat ∧ off.toNat ≤ 0x68)
            ∨ (0x80 ≤ off.toNat ∧ off.toNat ≤ 0x98)))
        && after (step { decodedGolden with pending := [.write 4 off 7] })
          (fun t => t.readReg off = decodedGolden.readReg off && t.status.word = 7)) = true := by decide

/-- RecordBytesInTheHostsView, at the last byte and at the byte that does not exist. -/
theorem witness_window_bytes :
    golden.windowByte 0x22 = 0x20 ∧ golden.recByte 18 = 0x20 ∧ golden.windowByte 0x23 = 0 := by decide

/-- WindowLiesAtBase, just below, at both ends of and just above the window. -/
theorem witness_window :
    start.params.windowOffset 0x3FFFFFFF = none ∧ start.params.windowOffset 0x40000000 = some 0x00
      ∧ start.params.windowOffset 0x400000FF = some 0xFF
      ∧ start.params.windowOffset 0x40000100 = none := by decide

/-- ResetStateHoldsAfterEveryReset, WarnTellsThatANameIsMissing, the reset input. -/
theorem witness_reset_input : (issued .reset).pending = .reset :: [] := by decide

/-- RegistersAreWrittenOnlyByTheirCommands, a command of each clause. -/
theorem witness_commands :
    exec .nop built = .next built.succeed ∧ Instr.nop ≠ .sreset ∧ Instr.nop ≠ .build
      ∧ Instr.nop ≠ .decode ∧ (∀ k, Instr.nop ≠ .ttsel k) ∧ (∀ a b, Instr.nop ≠ .slice a b)
      ∧ (∀ a, Instr.nop ≠ .xloc a) ∧ (∀ a, Instr.nop ≠ .xltot a) ∧ (∀ a, Instr.nop ≠ .xdate a) :=
  ⟨rfl, nofun, nofun, nofun, nofun, nofun, nofun, nofun, nofun⟩

/-- StickyErrorIsKeptUntilCleared: an error sets it, CLRERR clears it. -/
theorem witness_sticky :
    after (runCommand 0x0000000A built) (fun t => t.status.errCode ≠ 0 && t.status.stickyErr) = true
      ∧ after (runCommand 0x00000008 { built with status := ⟨true, false, false, true, 3, 0xFF, 0⟩ })
        (fun t => !t.status.stickyErr) = true
      ∧ after (runCommand 0x00000000 { built with status := ⟨true, false, false, true, 3, 0xFF, 0⟩ })
        (fun t => t.status.errCode = 0 && t.status.stickyErr) = true := by decide

/-- StickyErrorIsKeptUntilCleared, a step that clears it: the CMD write of CLRERR. -/
theorem witness_sticky_step :
    after (step { built with
        status := ⟨true, false, false, true, 3, 0xFF, 0⟩, pending := [.write 4 0x04 0x00000008] })
      (fun t => !t.status.stickyErr) = true := by decide

/-- SeqValidTellsThatASequenceWasBuilt and DecValidTellsTheLastDecode: a step of each clause, from DC1, and
BUILD from a state with SEQ_VALID 0. -/
theorem witness_valid_bits :
    after (step { golden with pending := [.write 4 0x04 0x00000001] })
        (fun t => t.status.seqValid && !t.status.decValid) = true
      ∧ after (step { decodedGolden with pending := [.write 4 0x04 0x00000009] })
        (fun t => !t.status.seqValid && !t.status.decValid) = true
      ∧ after (step { decodedGolden with pending := [.reset] })
        (fun t => !t.status.seqValid && !t.status.decValid) = true
      ∧ after (step { decodedGolden with pending := [.write 4 0x10 0] })
        (fun t => t.status.seqValid && t.status.decValid) = true := by decide

/-- WarnTellsThatANameIsMissing: DC1 has WARN 1, and the failing record of DC3 WARN 0. -/
theorem witness_warn :
    after (exec .decode golden) (fun t => t.status.warn && t.status.errCode = 0) = true
      ∧ after (exec .decode (withRecord 0 0x0002C000 0 0 0))
        (fun t => !t.status.warn && t.status.errCode = 2) = true := by decide

/-- SeqIsWrittenByBuildAndDecodeAlone: each kind of command word, and a step that runs none. -/
theorem witness_seq :
    after (runCommand 0x00000001 golden) (fun t => t.seq = goldenSeq) = true
      ∧ after (runCommand 0x00000009 built) (fun t => t.seq = 0) = true
      ∧ after (runCommand 0x0000000A built) (fun t => t.seq = goldenSeq) = true
      ∧ after (step { built with pending := [.write 4 0x20 0] }) (fun t => t.seq = goldenSeq) = true := by
  decide

/-- CommandsAreIdempotent. -/
theorem witness_idempotent : runCommand 0x00000001 golden = .next golden.rebuild.succeed := rfl

/-- DecodeDependsOnlyOnTheRecord: two states with one record, that differ in RESULT and STICKY_ERR. -/
theorem witness_decode_depends :
    (∀ j < 5, golden.recWord j
        = (State.recWord { golden with result := 7, status := ⟨false, false, false, true, 0, 0, 0⟩ } j))
      ∧ after (exec .decode golden) (fun _ => true) = true
      ∧ after (exec .decode { golden with result := 7, status := ⟨false, false, false, true, 0, 0, 0⟩ })
        (fun _ => true) = true := by decide

/-- SliceShiftsTheSequence, at both ends of the range and with the widest field. -/
theorem witness_slice :
    built.status.seqValid = true ∧ (32 ≤ 32 ∧ 24 ≤ 24 ∧ 24 + 32 ≤ 176)
      ∧ (0 ≤ 32 ∧ 24 ≤ 176 ∧ 176 + 0 ≤ 176) := by decide

/-- SliceErrorsInOrder, each alternative at its boundary. -/
theorem witness_slice_errors :
    (start.status.seqValid = false) ∧ (32 < 33) ∧ (23 < 24) ∧ (176 < 176 + 1)
      ∧ after (exec (.slice 23 1) built) (fun t => t.status.errCode = 1) = true
      ∧ after (exec (.slice 176 1) built) (fun t => t.status.errCode = 1) = true := by decide

/-- ExtractReturnsTheFieldsValue, for the prefix field with value 0x1F (vector IS1). -/
theorem witness_isolation :
    24 ≤ 171 ∧ 171 + 5 ≤ 176 ∧ 0x1F < 2 ^ 5
      ∧ ∀ p < 152, ((0x1F#152) <<< 147).getMsbD p
        = (decide (176 - 171 - 5 ≤ p) && decide (p < 176 - 171)
            && Nat.testBit 0x1F (5 - 1 - (p - (176 - 171 - 5)))) := by decide +kernel

/-- ExtractReadsOnlyItsRange: two sequences that differ outside the range, and both ends out of range. -/
theorem witness_locality :
    24 ≤ 171 ∧ 171 + 5 ≤ 176
      ∧ (∀ p < 152, 176 - 171 - 5 ≤ p → p < 176 - 171 →
          ((0x1F#152) <<< 147).getMsbD p = (((0x1F#152) <<< 147) ||| 1#152).getMsbD p)
      ∧ Slicer.extract 24 0 ⟨23, 1⟩ = none ∧ Slicer.extract 24 0 ⟨176, 1⟩ = none := by decide +kernel

/-- XlocLooksUpThePrefix and XlocRejectsLargeIndexes where they meet; XdateLooksUpTheDate at its end. -/
theorem witness_lookups : 31 < 32 ∧ 32 ≤ 32 ∧ 511 < 512 := by decide

/-- XltotLooksUpTheLetters at "ZZ"; XltotRejectsLargeHalves with each half alone. -/
theorem witness_ltot :
    (825 / 32 ≤ 25 ∧ 825 % 32 ≤ 25) ∧ (25 < 832 / 32 ∧ 832 % 32 ≤ 25)
      ∧ (26 / 32 ≤ 25 ∧ 25 < 26 % 32) := by decide

/-- AddDaysCountsGregorianDays: the last day of the table's longest February, and a day it has not. -/
theorem witness_month_table :
    IsDate ⟨2000, 2, 29⟩ ∧ ¬ IsDate ⟨1900, 2, 29⟩ ∧ dayNumber ⟨2000, 3, 1⟩ = dayNumber ⟨2000, 2, 28⟩ + 2 := by
  refine ⟨⟨by decide, by decide, 29, rfl, by decide⟩, ?_, by decide⟩
  rintro ⟨-, -, len, h, hd⟩
  cases h
  exact absurd hd (by decide)

/-- YearLaterUnlessALeapDayBetween: a date whose next 29 February is the day
after it, and one day that is none. -/
theorem witness_dates :
    Calendar.validDate ⟨2000, 2, 28⟩ = true ∧ leapDay ⟨2000, 2, 28⟩ = false
      ∧ leapDay (Calendar.addDays ⟨2000, 2, 28⟩ 1) = true := by decide

/-- YearLaterUnlessALeapDayBetween, the clause with no 29 February: from 2001-01-01 (vector DT16). -/
theorem witness_common_year :
    Calendar.validDate ⟨2001, 1, 1⟩ = true ∧ leapDay ⟨2001, 1, 1⟩ = false
      ∧ ((List.range 366).all fun n => !leapDay (Calendar.addDays ⟨2001, 1, 1⟩ n)) = true := by
  decide +kernel

/-- DecodeReportsTheFields, DecodeReportsTheCodes and DecodeResolvesTheTickets, for the golden record. -/
theorem witness_decode_success :
    fieldValue (buildSeq golden.recByte) 5 / 32 ≤ 25
      ∧ fieldValue (buildSeq golden.recByte) 5 % 32 ≤ 25 := by decide

/-- DecodeFailureZeroesTheResults, with the low half (DC3) and the high half (DC4) alone. -/
theorem witness_decode_failure :
    25 < fieldValue (buildSeq (withRecord 0 0x0002C000 0 0 0).recByte) 5 % 32
      ∧ 25 < fieldValue (buildSeq (withRecord 0 0x00001600 0 0 0).recByte) 5 / 32 := by decide

/-- DecodeChecksTheLayoutInOrder, first clause: row 1 of `badRows` fails and row 0 passes. -/
theorem witness_layout_range :
    ¬ (badRows.headerAdj ≤ (badRows.table.get 1).start
        ∧ (badRows.table.get 1).start + (badRows.table.get 1).length ≤ 152 + badRows.headerAdj)
      ∧ ∀ j < (1 : Fin 11), badRows.headerAdj ≤ (badRows.table.get j).start
        ∧ (badRows.table.get j).start + (badRows.table.get j).length ≤ 152 + badRows.headerAdj := by
  decide

/-- The layout whose destination prefix is 6 bits wide. -/
def wideDestination : Layout :=
  { Layout.default with table := { Layout.default.table with destPfx := ⟨155, 6⟩ } }

/-- DecodeChecksTheLayoutInOrder, the prefix clauses: every row in range, row 0 or row 2 at 32. -/
theorem witness_layout_prefixes :
    (∀ k : Fin 11, widePrefix.headerAdj ≤ (widePrefix.table.get k).start
        ∧ (widePrefix.table.get k).start + (widePrefix.table.get k).length ≤ 152 + widePrefix.headerAdj)
      ∧ 32 ≤ (0x80#152 <<< 144).toNat / 2 ^ (170 - 24) % 2 ^ 6
      ∧ (∀ k : Fin 11, wideDestination.headerAdj ≤ (wideDestination.table.get k).start
        ∧ (wideDestination.table.get k).start + (wideDestination.table.get k).length
          ≤ 152 + wideDestination.headerAdj)
      ∧ (0x01#152 <<< 136).toNat / 2 ^ (171 - 24) % 2 ^ 5 < 32
      ∧ 32 ≤ (0x01#152 <<< 136).toNat / 2 ^ (155 - 24) % 2 ^ 6 := by decide

/-- DecodeChecksTheLayoutInOrder, the LTOT clause: every row of the default layout in range, both prefixes 0,
and the high half or the low half of LTOT at 26. -/
theorem witness_layout_ltot :
    (∀ k : Fin 11, Layout.default.headerAdj ≤ (Layout.default.table.get k).start
        ∧ (Layout.default.table.get k).start + (Layout.default.table.get k).length
          ≤ 152 + Layout.default.headerAdj)
      ∧ (832#152 <<< 101).toNat / 2 ^ (171 - 24) % 2 ^ 5 < 32
      ∧ (832#152 <<< 101).toNat / 2 ^ (156 - 24) % 2 ^ 5 < 32
      ∧ 25 < (832#152 <<< 101).toNat / 2 ^ (125 - 24) % 2 ^ 10 / 32
      ∧ 25 < (26#152 <<< 101).toNat / 2 ^ (125 - 24) % 2 ^ 10 % 32
      ∧ decodeSeq Layout.default start.params (26#152 <<< 101) = .error ⟨.alphabetRange, 5, 2⟩ := by decide

/-- SliceSeesTheOldRecord. -/
theorem witness_stale :
    State.pending { built with pending := [.write 4 0x20 0, .write 4 0x04 0x00092102] }
        = [.write 4 0x20 0, .write 4 0x04 0x00092102]
      ∧ (0x20 : BitVec 8) ∈ ([0x10, 0x14, 0x18, 0x1C, 0x20] : List (BitVec 8))
      ∧ decode 0x00092102 = .ok (.slice 33 9) := by decide

/-- SliceSeesTheOldSequenceUntilARebuild: a REC write, a read and a NOP before the SLICE, which answers from
the old sequence (vector SL11). -/
theorem witness_stale_later :
    State.pending { built with
        pending := [.write 4 0x18 0, .read 4 0x98, .write 4 0x04 0, .write 4 0x04 0x00092102] }
        = .write 4 0x18 0 :: ([.read 4 0x98, .write 4 0x04 0] ++ [.write 4 0x04 0x00092102])
      ∧ (∀ e ∈ [HostEvent.read 4 0x98, HostEvent.write 4 0x04 0], e.keepsSequence = true)
      ∧ HostEvent.keepsSequence (.write 4 0x04 0x00000001) = false
      ∧ after (Host.Core.run core 4 { built with
          pending := [.write 4 0x18 0, .read 4 0x98, .write 4 0x04 0, .write 4 0x04 0x00092102] })
        (fun t => t.result = 106) = true := by decide

/-- LoadrecTakesExactly38HexDigits: digits at both ends of their ranges, and the characters next to them. -/
theorem witness_hex_digits :
    SpellsDigit '9' 9 ∧ SpellsDigit 'A' 10 ∧ SpellsDigit 'F' 15 ∧ SpellsDigit 'f' 15
      ∧ loadRec (List.replicate 38 'f') ≠ none ∧ loadRec (List.replicate 38 'g') = none
      ∧ loadRec (List.replicate 38 ':') = none ∧ loadRec (List.replicate 39 'F') = none :=
  ⟨.inl rfl, .inl rfl, .inl rfl, .inr rfl, nofun, rfl, rfl, rfl⟩

/-- LoadrecLoadsTheHexText, for 38 digits 5. -/
theorem witness_loadrec :
    loadRec (List.replicate 38 '5')
      = some [.write 4 0x10 0x55555555, .write 4 0x14 0x55555555, .write 4 0x18 0x55555555,
          .write 4 0x1C 0x55555555, .write 4 0x20 0x00555555] := rfl

/-- ReferenceIndexKeepsFileOrder: a file that builds an index. -/
theorem witness_reference :
    (RefIndex.ofReference [referenceLine 0x53 0x4F 0x53 0x41 0x45] [(code3 'S' 'O' 'S', "a")]).isSome
      = true := rfl

/-- ReferenceIndexKeepsFileOrder: the last of two names of a code wins; a line of 100 characters is refused
(DESIGN CHOICE, assumption 15). -/
theorem witness_reference_names :
    ((RefIndex.ofReference [referenceLine 0x53 0x4F 0x53 0x41 0x45]
        [(code3 'S' 'O' 'S', "a"), (code3 'S' 'O' 'S', "b")]).map
      fun r => r.ticketTypeToName.lookup (code3 'S' 'O' 'S')) = some (some "b")
      ∧ RefIndex.ofReference [(referenceLine 0x53 0x4F 0x53 0x41 0x45).take 100] [] = none := ⟨rfl, rfl⟩

end Sys2Proof.Tests
end

section
/-! The parameters `REF_INDEX`, `EPOCH_DATE` and `BASE` are the same after every step (00_scope.md R7,
10_state.md R44): no command writes them, and no bus access or reset does. -/

namespace Sys2Proof.Machine

@[simp] theorem State.finish_params (s : State) (v : Word) : (s.finish v).params = s.params := by
  rw [State.finish, State.succeed_params, State.setResult_params]

@[simp] theorem State.abort_params (s : State) (e : CmdError) : (s.abort e).params = s.params := by
  rw [State.abort, State.raise_params, State.setResult_params]

@[simp] theorem State.writeReg_params (s : State) (off : BitVec 8) (v : Word) :
    (s.writeReg off v).params = s.params := by
  rw [writeReg_frame]

/-- A command word answers as the command it encodes, or raises ILLEGAL_CMD (30_encoding.md R74, R75). -/
theorem runCommand_cases {w : Word} {s t : State} (h : runCommand w s = .next t) :
    (∃ i, decode w = .ok i ∧ exec i s = .next t)
      ∨ ((∃ r, decode w = .error r) ∧ t = s.raise (.plain .illegalCmd)) := by
  unfold runCommand at h
  split at h
  · exact .inl ⟨_, ‹_›, h⟩
  · cases h
    exact .inr ⟨⟨_, ‹_›⟩, rfl⟩

/-- No command writes the parameters. -/
theorem exec_params {i : Instr} {s t : State} (h : exec i s = .next t) : t.params = s.params := by
  cases i with
  | nop | build | clrerr | sreset | xdate off =>
    cases h
    rfl
  | slice start len => obtain ⟨k, rfl⟩ | ⟨v, rfl⟩ := execSlice_cases h <;> simp
  | decode => obtain rfl | rfl := execDecode_cases h <;> simp
  | xloc idx => obtain ⟨-, rfl⟩ | ⟨-, rfl⟩ := execXloc_cases h <;> simp
  | xltot raw => obtain rfl | ⟨c0, c1, rfl⟩ := execXltot_cases h <;> simp
  | ttsel k => obtain rfl | ⟨e, -, rfl⟩ := execTtsel_cases h <;> simp

/-- No command word writes the parameters, be it a command or not. -/
theorem runCommand_params {w : Word} {s t : State} (h : runCommand w s = .next t) :
    t.params = s.params := by
  obtain ⟨i, -, hi⟩ | ⟨-, rfl⟩ := runCommand_cases h
  · exact exec_params hi
  · exact s.raise_params _

/-- Settles O21: the step waits, serves a read, runs a command word, writes a register or resets, and each
keeps the parameters. -/
theorem nothingWritesTheParameters : Obligations.NothingWritesTheParameters := by
  intro s t h
  obtain ⟨-, rfl⟩ | ⟨e, rest, -, hs⟩ := step_next_cases h
  · rfl
  · obtain ⟨off, -, rfl⟩ | ⟨w, -, hw⟩ | ⟨off, v, -, -, rfl⟩ | ⟨-, rfl⟩ := hs
    · rfl
    · simpa using runCommand_params hw
    · exact State.writeReg_params _ off v
    · exact State.applyReset_params _

end Sys2Proof.Machine
end

section
/-! What a command can answer, by instruction: the one case analysis the statements about commands rest on. -/

namespace Sys2Proof.Machine

/-- The commands that write RESULT: SLICE, XLOC, XLTOT and XDATE (10_state.md R43). -/
def WritesResult : Instr → Prop
  | .slice _ _ | .xloc _ | .xltot _ | .xdate _ => True
  | _ => False

/-- An error as a command raises it: its field is a row of the field table or 0xFF, and ALPHABET_RANGE alone
has a sub-code (10_state.md R30, R31). -/
def CmdError.Proper (e : CmdError) : Prop :=
  (e.field.toNat ≤ 10 ∨ e.field = 0xFF) ∧ (e.sub ≠ 0 → e.kind = .alphabetRange)

/-- The error codes are 1 to 5 (60_exceptions.md R170). -/
theorem ErrorKind.code_range (k : ErrorKind) : k.code ≠ 0 ∧ k.code.toNat ≤ 5 := by
  cases k <;> decide

theorem CmdError.plain_proper (k : ErrorKind) : (CmdError.plain k).Proper :=
  ⟨.inr rfl, fun h => absurd rfl h⟩

/-- The next states of a command: its outcomes as the rules of the commands list them. -/
inductive Answers (s : State) : Instr → State → Prop
  | nop : Answers s .nop s.succeed
  | build : Answers s .build s.rebuild.succeed
  | decoded (hi : fieldValue (buildSeq s.recByte) 5 / 32 ≤ 25)
      (lo : fieldValue (buildSeq s.recByte) 5 % 32 ≤ 25) :
      Answers s .decode
        (s.rebuild.commitDecode (decodedOf s.params (buildSeq s.recByte))).succeed
  | notDecoded (sub : BitVec 2) :
      Answers s .decode (s.rebuild.clearDecode.raise ⟨.alphabetRange, 5, sub⟩)
  | selected (k : Nat) (e : TicketEntry) (he : e ∈ s.ttList) :
      Answers s (.ttsel k) (s.setTtCode (packTicket e)).succeed
  | notSelected (k : Nat) : Answers s (.ttsel k) (s.raise (.plain .operandRange))
  | finished {i : Instr} (hi : WritesResult i) (v : Word) : Answers s i (s.finish v)
  | aborted {i : Instr} (hi : WritesResult i) {e : CmdError} (he : e.Proper) :
      Answers s i (s.abort e)
  | clrerr : Answers s .clrerr s.clearSticky.succeed
  | sreset : Answers s .sreset s.applyReset

/-- Every next state of a command is one of its answers. -/
theorem exec_answers {i : Instr} {s t : State} (h : exec i s = .next t) : Answers s i t := by
  cases i with
  | nop => cases h; exact .nop
  | build => cases h; exact .build
  | slice start len =>
    obtain ⟨k, rfl⟩ | ⟨v, rfl⟩ := execSlice_cases h
    · exact .aborted (i := .slice start len) trivial (CmdError.plain_proper k)
    · exact .finished (i := .slice start len) trivial v
  | decode =>
    by_cases hr : fieldValue (buildSeq s.recByte) 5 / 32 ≤ 25
        ∧ fieldValue (buildSeq s.recByte) 5 % 32 ≤ 25
    · rw [execDecode_success s hr.1 hr.2] at h
      cases h
      exact .decoded hr.1 hr.2
    · rw [execDecode_failure s (by omega)] at h
      cases h
      exact .notDecoded _
  | xloc idx =>
    obtain ⟨-, rfl⟩ | ⟨-, rfl⟩ := execXloc_cases h
    · exact .aborted (i := .xloc idx) trivial (CmdError.plain_proper _)
    · exact .finished (i := .xloc idx) trivial _
  | xltot raw =>
    obtain rfl | ⟨c0, c1, rfl⟩ := execXltot_cases h
    · exact .aborted (i := .xltot raw) trivial ⟨.inr rfl, fun _ => rfl⟩
    · exact .finished (i := .xltot raw) trivial _
  | xdate off => cases h; exact .finished (i := .xdate off) trivial _
  | ttsel k =>
    obtain rfl | ⟨e, he, rfl⟩ := execTtsel_cases h
    · exact .notSelected k
    · exact .selected k e (List.mem_of_getElem? he)
  | clrerr => cases h; exact .clrerr
  | sreset => cases h; exact .sreset

/-- Every command answers a next state (60_exceptions.md R175). -/
theorem exec_total (i : Instr) (s : State) : ∃ t, exec i s = .next t := by
  cases i with
  | nop | build | xdate _ | clrerr | sreset => exact ⟨_, rfl⟩
  | slice start len =>
    simp only [exec, execSlice]
    split_ifs
    · exact ⟨_, rfl⟩
    · exact ⟨_, rfl⟩
    · split <;> exact ⟨_, rfl⟩
  | decode => simp only [exec, execDecode]; split <;> exact ⟨_, rfl⟩
  | xloc idx => simp only [exec, execXloc]; split <;> exact ⟨_, rfl⟩
  | xltot raw => simp only [exec, execXltot]; split <;> exact ⟨_, rfl⟩
  | ttsel k =>
    simp only [exec, execTtsel]
    split
    · exact ⟨_, rfl⟩
    · split <;> exact ⟨_, rfl⟩

end Sys2Proof.Machine
end


section
/-! DECODE's outputs as registers: FIELD[k] holds field k, and TT_LIST fits TT_COUNT. -/

namespace Sys2Proof

@[simp] theorem PerField.get_map {α β : Type} (f : α → β) (v : PerField α) (k : Fin 11) :
    (v.map f).get k = f (v.get k) := by
  fin_cases k <;> rfl

theorem PerField.ext_get {α : Type} {v w : PerField α} (h : ∀ k, v.get k = w.get k) : v = w := by
  cases v
  cases w
  rw [PerField.mk.injEq]
  exact ⟨h 0, h 1, h 2, h 3, h 4, h 5, h 6, h 7, h 8, h 9, h 10⟩

namespace Machine

theorem fieldWidth_eq_length (k : Fin 11) :
    fieldWidth k = (Layout.default.table.get k).length := by
  fin_cases k <;> rfl

theorem fieldWidth_le (k : Fin 11) : fieldWidth k ≤ 11 := by
  fin_cases k <;> decide

/-- No field has more than 11 bits. -/
theorem fieldValue_lt_2048 (seq : Seq) (k : Fin 11) : fieldValue seq k < 2048 :=
  (fieldValue_lt seq k).trans_le (Nat.pow_le_pow_right (by decide) (fieldWidth_le k))

theorem decodedOf_field (p : Params) (seq : Seq) (k : Fin 11) :
    (decodedOf p seq).fields.get k = BitVec.ofNat 32 (fieldValue seq k) := by
  rw [decodedOf, PerField.get_map, slicerValues_get]

theorem decodedOf_field_toNat (p : Params) (seq : Seq) (k : Fin 11) :
    ((decodedOf p seq).fields.get k).toNat = fieldValue seq k := by
  have := fieldValue_lt_2048 seq k
  rw [decodedOf_field, BitVec.toNat_ofNat, Nat.mod_eq_of_lt (by omega)]

/-- The FIELD registers read as numbers are the slicers' outputs again. -/
theorem decodedOf_fields_map_toNat (p : Params) (seq : Seq) :
    (decodedOf p seq).fields.map BitVec.toNat = slicerValues seq := by
  refine PerField.ext_get fun k => ?_
  rw [PerField.get_map, decodedOf_field_toNat, slicerValues_get]

/-- With both LTOT halves at most 25 the slicers' outputs resolve to the outputs of DECODE (R140). -/
theorem resolveFields_slicerValues (p : Params) (seq : Seq) (hi : fieldValue seq 5 / 32 ≤ 25)
    (lo : fieldValue seq 5 % 32 ≤ 25) :
    resolveFields p (slicerValues seq) = .ok (decodedOf p seq) := by
  rw [← decodeSeq_default, decodeSeq_cases, if_pos ⟨hi, lo⟩]

/-- No key has more codes than TT_COUNT's 16 bits can count (43_decode_resolve.md R150). -/
theorem lookupTypes_length_le (r : RefIndex) (key : LtotKey) :
    (r.lookupTypes key).length ≤ 65535 := by
  rw [RefIndex.lookupTypes]
  cases hl : r.ltotToTicketTypes.lookup key with
  | none => simp
  | some codes =>
    obtain ⟨before, later, he, -⟩ := List.lookup_eq_some_iff.1 hl
    have hb := List.all_eq_true.1 r.bounded (key, codes) (by simp [he])
    simpa using hb

theorem decodedOf_tickets_length_le (p : Params) (seq : Seq) :
    (decodedOf p seq).tickets.length ≤ 65535 := by
  rw [decodedOf, resolveTickets, List.length_map]
  exact lookupTypes_length_le _ _

end Machine

end Sys2Proof
end

section
/-! The register invariant `State.Consistent` is kept by every update a command makes, and so by every step. -/

namespace Sys2Proof.Machine

namespace State.Consistent

variable {s : State}

theorem succeed (h : s.Consistent) : s.succeed.Consistent :=
  { h with
    errCode_le := by simp
    noError := fun _ => ⟨rfl, rfl⟩
    errorSticky := fun hc => absurd rfl hc
    errField_range := .inl (by simp)
    errSub_kind := fun hs => absurd rfl hs }

theorem raise (h : s.Consistent) {e : CmdError} (he : e.Proper) : (s.raise e).Consistent :=
  { h with
    errCode_le := e.kind.code_range.2
    noError := fun hc => absurd hc e.kind.code_range.1
    errorSticky := fun _ => rfl
    errField_range := he.1
    errSub_kind := fun hs => by rw [State.raise_status, Status.fail_errCode, he.2 hs]; rfl }

theorem setResult (h : s.Consistent) (v : Word) : (s.setResult v).Consistent := { h with }

theorem clearSticky_succeed (h : s.Consistent) : s.clearSticky.succeed.Consistent :=
  { h.succeed with errorSticky := fun hc => absurd rfl hc }

theorem rebuild (h : s.Consistent) : s.rebuild.Consistent :=
  { h with
    seq_unbuilt := fun hv => nomatch hv
    decoded_built := fun _ => rfl }

theorem clearDecode (h : s.Consistent) : s.clearDecode.Consistent :=
  { h with
    decoded_built := fun hd => nomatch hd
    notDecoded := fun _ => ⟨rfl, rfl, rfl, rfl, rfl, rfl, rfl, rfl⟩
    field_width := fun k => by rw [State.clearDecode_fields]; revert k; decide
    decoded := fun hd => nomatch hd
    count := rfl
    count_bound := by simp
    selected := .inl rfl
    warned := rfl }

/-- A DECODE that succeeds leaves registers that agree with each other (R37 to R42). -/
theorem commitDecode (h : s.Consistent) (hb : s.status.seqValid = true) {seq : Seq}
    (hi : fieldValue seq 5 / 32 ≤ 25) (lo : fieldValue seq 5 % 32 ≤ 25) :
    (s.commitDecode (decodedOf s.params seq)).Consistent :=
  { h with
    decoded_built := fun _ => hb
    notDecoded := fun hd => nomatch hd
    field_width := fun k => by
      rw [State.commitDecode_fields, decodedOf_field_toNat, ← fieldWidth_eq_length]
      exact fieldValue_lt seq k
    decoded := fun _ => by
      rw [State.commitDecode_fields, decodedOf_fields_map_toNat]
      exact resolveFields_slicerValues s.params seq hi lo
    count := by
      have := decodedOf_tickets_length_le s.params seq
      rw [State.commitDecode_ttCount, State.commitDecode_ttList, BitVec.toNat_ofNat,
        Nat.mod_eq_of_lt (by omega)]
    count_bound := decodedOf_tickets_length_le s.params seq
    selected := .inl rfl
    warned := rfl }

/-- Showing an entry of TT_LIST keeps the invariant: there is one only with DEC_VALID = 1. -/
theorem setTtCode (h : s.Consistent) {e : TicketEntry} (he : e ∈ s.ttList) :
    (s.setTtCode (packTicket e)).Consistent :=
  { h with
    notDecoded := fun hd => by
      obtain ⟨-, -, -, -, -, -, -, hl⟩ := h.notDecoded hd
      simp [hl] at he
    selected := .inr ⟨e, he, rfl⟩ }

/-- The reset state meets the invariant, whatever the parameters and the host's lists. -/
theorem applyReset (s : State) : s.applyReset.Consistent where
  errCode_le := by simp
  noError := fun _ => ⟨rfl, rfl⟩
  errorSticky := fun hc => absurd rfl hc
  errField_range := .inl (by simp)
  errSub_kind := fun hs => absurd rfl hs
  seq_unbuilt := fun _ => rfl
  decoded_built := fun hd => nomatch hd
  notDecoded := fun _ => ⟨rfl, rfl, rfl, rfl, rfl, rfl, rfl, rfl⟩
  field_width := fun k => by rw [State.applyReset_fields]; revert k; decide
  decoded := fun hd => nomatch hd
  count := rfl
  count_bound := by simp
  selected := .inl rfl
  warned := rfl

theorem finish (h : s.Consistent) (v : Word) : (s.finish v).Consistent := (h.setResult v).succeed

theorem abort (h : s.Consistent) {e : CmdError} (he : e.Proper) : (s.abort e).Consistent :=
  (h.setResult 0).raise he

end State.Consistent

/-- Every command keeps the register invariant. -/
theorem Answers.consistent {i : Instr} {s t : State} (ha : Answers s i t) (h : s.Consistent) :
    t.Consistent := by
  cases ha with
  | nop => exact h.succeed
  | build => exact h.rebuild.succeed
  | decoded hi lo => exact (h.rebuild.commitDecode rfl hi lo).succeed
  | notDecoded sub => exact h.rebuild.clearDecode.raise ⟨.inl (show 5 ≤ 10 by decide), fun _ => rfl⟩
  | selected k e he => exact (h.setTtCode he).succeed
  | notSelected k => exact h.raise (CmdError.plain_proper _)
  | finished hi v => exact h.finish v
  | aborted hi he => exact h.abort he
  | clrerr => exact h.clearSticky_succeed
  | sreset => exact .applyReset s

theorem runCommand_consistent {w : Word} {s t : State} (hw : runCommand w s = .next t)
    (h : s.Consistent) : t.Consistent := by
  obtain ⟨i, -, hi⟩ | ⟨-, rfl⟩ := runCommand_cases hw
  · exact (exec_answers hi).consistent h
  · exact h.raise (CmdError.plain_proper _)

/-- Settles O18: waiting, a read and a register write touch no register the invariant speaks of; a command word
and a reset keep it. -/
theorem stepKeepsConsistency : Obligations.StepKeepsConsistency := by
  intro s t h hs
  obtain ⟨-, rfl⟩ | ⟨e, rest, -, he⟩ := step_next_cases hs
  · exact h
  · have hp : State.Consistent { s with pending := rest } := { h with }
    obtain ⟨off, -, rfl⟩ | ⟨w, -, hw⟩ | ⟨off, v, -, -, rfl⟩ | ⟨-, rfl⟩ := he
    · exact { h with }
    · exact runCommand_consistent hw hp
    · rw [writeReg_frame]
      exact { h with }
    · exact .applyReset _

end Sys2Proof.Machine
end

section
/-! Which words run the commands without operands, and what every other step leaves alone: SEQ, the validity
bits and a recorded error (10_state.md R25, R26, R28, R35). -/

namespace Sys2Proof.Machine

/-- A command comes from `unlessReserved` when the word has no reserved bit (30_encoding.md R74). -/
theorem unlessReserved_eq_ok_iff {mask w : Word} {i j : Instr} :
    unlessReserved mask w i = .ok j ↔ w &&& mask = 0 ∧ i = j := by
  by_cases h : w &&& mask = 0
  · rw [unlessReserved, if_pos h, Except.ok.injEq, and_iff_right h]
  · rw [unlessReserved, if_neg h]
    exact ⟨nofun, fun hw => absurd hw.1 h⟩

/-- A word with no reserved bit of format N is its opcode. -/
theorem eq_ofNat_of_opcode {w : Word} {n : Nat} (h : w &&& reservedN = 0)
    (hn : (opcodeOf w).toNat = n) : w = BitVec.ofNat 32 n := by
  have hw : w.toNat % 256 = n := by
    rw [← hn, opcodeOf, BitVec.extractLsb'_toNat, Nat.shiftRight_zero]
  have hlow : w = w &&& 0xFF#32 := by
    have hor : w &&& (reservedN ||| 0xFF#32) = w := by
      rw [show reservedN ||| 0xFF#32 = BitVec.allOnes 32 by decide, BitVec.and_allOnes]
    rw [BitVec.and_or_distrib_left, h] at hor
    simpa using hor.symm
  have hlt : w.toNat ≤ 255 := by
    rw [hlow, BitVec.toNat_and]
    exact Nat.and_le_right
  rw [← hw, Nat.mod_eq_of_lt (by omega), BitVec.ofNat_toNat, BitVec.setWidth_eq]

/-- The commands of format N, which have no operand (30_encoding.md R71). -/
def Operandless : Instr → Prop
  | .nop | .build | .decode | .clrerr | .sreset => True
  | _ => False

/-- One word alone decodes to a command without operands (30_encoding.md R74, R76). -/
theorem decode_eq_ok_iff {w : Word} {i : Instr} (hi : Operandless i) :
    decode w = .ok i ↔ w = encode i := by
  constructor
  · intro h
    unfold decode at h
    split at h
    case h_11 => cases h
    all_goals
      rename_i hop
      obtain ⟨hm, rfl⟩ := unlessReserved_eq_ok_iff.1 h
      cases hi <;> exact eq_ofNat_of_opcode hm hop
  · rintro rfl
    cases i <;> cases hi <;> rfl

/-- What a step leaves alone that neither builds a sequence nor resets: SEQ, SEQ_VALID, DEC_VALID, and a
recorded error. -/
structure State.Retains (s t : State) : Prop where
  seq : t.seq = s.seq
  seqValid : t.status.seqValid = s.status.seqValid
  decValid : t.status.decValid = s.status.decValid
  stickyErr : s.status.stickyErr = true → t.status.stickyErr = true

theorem State.raise_retains (s : State) (e : CmdError) : s.Retains (s.raise e) :=
  ⟨rfl, rfl, rfl, fun _ => rfl⟩

/-- Every command but the four that write SEQ, a validity bit or STICKY_ERR retains them. -/
theorem Answers.retains {i : Instr} {s t : State} (ha : Answers s i t) (h1 : i ≠ .build)
    (h3 : i ≠ .decode) (h8 : i ≠ .clrerr) (h9 : i ≠ .sreset) : s.Retains t := by
  cases ha with
  | build | decoded | notDecoded | clrerr | sreset => contradiction
  | nop | selected | finished => exact ⟨rfl, rfl, rfl, id⟩
  | notSelected => exact s.raise_retains _
  | aborted => exact ⟨rfl, rfl, rfl, fun _ => rfl⟩

/-- Running a word runs BUILD, DECODE, CLRERR or SRESET, or retains what they write. -/
theorem runCommand_word_cases {w : Word} {s t : State} (h : runCommand w s = .next t) :
    (w = 1 ∧ t = s.rebuild.succeed) ∨ (w = 3 ∧ exec .decode s = .next t)
      ∨ (w = 8 ∧ t = s.clearSticky.succeed) ∨ (w = 9 ∧ t = s.applyReset)
      ∨ (w ≠ 1 ∧ w ≠ 3 ∧ w ≠ 8 ∧ w ≠ 9) ∧ s.Retains t := by
  by_cases h1 : w = 1
  · subst h1
    cases h
    exact .inl ⟨rfl, rfl⟩
  by_cases h3 : w = 3
  · subst h3
    exact .inr (.inl ⟨rfl, h⟩)
  by_cases h8 : w = 8
  · subst h8
    cases h
    exact .inr (.inr (.inl ⟨rfl, rfl⟩))
  by_cases h9 : w = 9
  · subst h9
    cases h
    exact .inr (.inr (.inr (.inl ⟨rfl, rfl⟩)))
  refine .inr (.inr (.inr (.inr ⟨⟨h1, h3, h8, h9⟩, ?_⟩)))
  obtain ⟨i, hd, hi⟩ | ⟨-, rfl⟩ := runCommand_cases h
  · have other {j : Instr} (hj : Operandless j) (hw : w ≠ encode j) : i ≠ j := by
      rintro rfl
      exact hw ((decode_eq_ok_iff hj).1 hd)
    exact (exec_answers hi).retains (other trivial h1) (other trivial h3) (other trivial h8)
      (other trivial h9)
  · exact s.raise_retains _

/-- A step resets, runs a command word, or retains SEQ, the validity bits and a recorded error. -/
theorem step_retains_cases {s t : State} (h : step s = .next t) :
    (∃ rest, s.pending = .reset :: rest ∧ t = State.applyReset { s with pending := rest })
      ∨ (∃ w rest, s.pending = .write 4 0x04 w :: rest
          ∧ runCommand w { s with pending := rest } = .next t)
      ∨ (s.pending.head? ≠ some .reset ∧ ∀ w, s.pending.head? ≠ some (.write 4 0x04 w))
          ∧ s.Retains t := by
  obtain ⟨hp, rfl⟩ | ⟨e, rest, hp, he⟩ := step_next_cases h
  · exact .inr (.inr ⟨by simp [hp], rfl, rfl, rfl, id⟩)
  · obtain ⟨off, rfl, rfl⟩ | ⟨w, rfl, hw⟩ | ⟨off, v, rfl, hoff, rfl⟩ | ⟨rfl, rfl⟩ := he
    · exact .inr (.inr ⟨by simp [hp], rfl, rfl, rfl, id⟩)
    · exact .inr (.inl ⟨w, rest, hp, hw⟩)
    · refine .inr (.inr ⟨?_, ?_⟩)
      · simpa [hp] using fun hc : off = 0x04 => hoff hc
      · rw [writeReg_frame]
        exact ⟨rfl, rfl, rfl, id⟩
    · exact .inl ⟨rest, hp, rfl⟩

end Sys2Proof.Machine
end

section
/-! STATUS and SEQ over commands and steps (10_state.md R24 to R28, R35, R36). -/

namespace Sys2Proof.Machine

/-- Bit i of STATUS[3:0] is that bit of the flags. -/
theorem Status.word_getLsbD_low (t : Status) {i : Nat} (h : i < 4) :
    t.word.getLsbD i = t.flags.getLsbD i := by
  rw [← t.word_and_lowMask, BitVec.getLsbD_and, getLsbD_lowMask, decide_eq_true h, Bool.and_true]

/-- STATUS[3:0] bit by bit (R24). -/
theorem Status.flags_getLsbD (t : Status) : t.flags.getLsbD 0 = t.seqValid
    ∧ t.flags.getLsbD 1 = t.decValid ∧ t.flags.getLsbD 2 = t.warn
    ∧ t.flags.getLsbD 3 = t.stickyErr := by
  obtain ⟨a, b, c, d, e, f, g⟩ := t
  simp only [Status.flags]
  revert a b c d
  decide

theorem Status.flags_toNat_lt (t : Status) : t.flags.toNat < 16 := by
  rw [← t.word_and_lowMask, BitVec.toNat_and]
  exact Nat.lt_of_le_of_lt Nat.and_le_right (by decide)

/-- STATUS[2] is WARN (R24). -/
theorem Status.word_getLsbD_warn (t : Status) : t.word.getLsbD 2 = t.warn := by
  obtain ⟨-, -, hw, -⟩ := t.flags_getLsbD
  rw [t.word_getLsbD_low (by decide), hw]

/-- Settles O57: the flags are the low four bits, the error fields stand side by side above them. -/
theorem statusShowsItsFields : Obligations.StatusShowsItsFields := by
  intro s
  have hw : s.readReg 0x08 = s.status.word := rfl
  have low {i : Nat} (h : i < 4) := s.status.word_getLsbD_low h
  obtain ⟨h0, h1, h2, h3⟩ := s.status.flags_getLsbD
  have hf := s.status.flags_toNat_lt
  have hc := s.status.errCode.isLt
  have he := s.status.errField.isLt
  simp only [hw, low, Nat.reduceLT, h0, h1, h2, h3, s.status.word_toNat, true_and]
  omega

theorem not_writesResult {i : Instr} (h2 : ∀ a b, i ≠ .slice a b) (h4 : ∀ a, i ≠ .xloc a)
    (h5 : ∀ a, i ≠ .xltot a) (h6 : ∀ a, i ≠ .xdate a) : ¬ WritesResult i := by
  cases i with
  | slice a b => exact absurd rfl (h2 a b)
  | xloc a => exact absurd rfl (h4 a)
  | xltot a => exact absurd rfl (h5 a)
  | xdate a => exact absurd rfl (h6 a)
  | nop | build | decode | ttsel | clrerr | sreset => exact id

/-- Settles O22: each command's answers write the registers that the rules name, and no other. -/
theorem registersAreWrittenOnlyByTheirCommands :
    Obligations.RegistersAreWrittenOnlyByTheirCommands := by
  intro i s t h hs
  cases exec_answers h with
  | nop | build | decoded | notDecoded | selected | notSelected | clrerr => simp
  | sreset => contradiction
  | finished hi | aborted hi =>
    exact ⟨⟨rfl, rfl, rfl, rfl, rfl⟩, fun _ _ => ⟨rfl, rfl⟩,
      fun _ => ⟨rfl, rfl, rfl, rfl, rfl, rfl, rfl, rfl, rfl⟩, fun _ _ => rfl,
      fun h2 h4 h5 h6 => absurd hi (not_writesResult h2 h4 h5 h6)⟩

/-- Settles O23: an answer with an error code has STICKY_ERR set, and among the steps only the three named do
not retain a recorded error. -/
theorem stickyErrorIsKeptUntilCleared : Obligations.StickyErrorIsKeptUntilCleared := by
  refine ⟨fun w s t h herr => ?_, fun s t h hs ht => ?_, fun s t h => ?_⟩
  · obtain ⟨i, -, hi⟩ | ⟨-, rfl⟩ := runCommand_cases h
    · cases exec_answers hi with
      | nop | build | decoded | selected | finished | clrerr | sreset => exact absurd rfl herr
      | notDecoded | notSelected | aborted => rfl
    · rfl
  · obtain ⟨rest, hp, -⟩ | ⟨w, rest, hp, hw⟩ | ⟨-, hr⟩ := step_retains_cases h
    · simp [hp]
    · obtain ⟨-, rfl⟩ | ⟨-, hd⟩ | ⟨rfl, -⟩ | ⟨rfl, -⟩ | ⟨-, hr⟩ := runCommand_word_cases hw
      · exact absurd hs (by simpa using ht)
      · obtain rfl | rfl := execDecode_cases hd
        · exact absurd hs (by simpa using ht)
        · cases ht
      · simp [hp]
      · simp [hp]
      · exact absurd (hr.stickyErr hs) (by simp [ht])
    · exact absurd (hr.stickyErr hs) (by simp [ht])
  · obtain h | h := h <;> cases h <;> rfl

/-- DECODE sets SEQ_VALID (43_decode_resolve.md R141). -/
theorem execDecode_seqValid {s t : State} (h : exec .decode s = .next t) :
    t.status.seqValid = true := by
  obtain rfl | rfl := execDecode_cases h <;> rfl

/-- DECODE rebuilds SEQ from the record (43_decode_resolve.md R141). -/
theorem execDecode_seq {s t : State} (h : exec .decode s = .next t) :
    t.seq = buildSeq s.recByte := by
  obtain rfl | rfl := execDecode_cases h <;> rfl

/-- Settles O24: a step resets, runs one of the words that write SEQ_VALID, or retains it. -/
theorem seqValidTellsThatASequenceWasBuilt : Obligations.SeqValidTellsThatASequenceWasBuilt := by
  refine ⟨rfl, fun s t h => ?_⟩
  obtain ⟨rest, hp, rfl⟩ | ⟨w, rest, hp, hw⟩ | ⟨⟨hreset, hwrite⟩, hr⟩ := step_retains_cases h
  · simp [hp]
  · obtain ⟨rfl, rfl⟩ | ⟨rfl, hd⟩ | ⟨rfl, rfl⟩ | ⟨rfl, rfl⟩ | ⟨⟨h1, h3, h8, h9⟩, hr⟩ :=
      runCommand_word_cases hw
    · simp [hp]
    · simp [hp, execDecode_seqValid hd]
    · simp [hp]
    · simp [hp]
    · simp only [hp, List.head?_cons, Option.some.injEq, HostEvent.write.injEq, true_and, reduceCtorEq,
        false_or, hr.seqValid]
      exact ⟨fun hb => absurd hb (not_or.2 ⟨h1, h3⟩), fun hb => absurd hb h9, fun _ _ => trivial⟩
  · exact ⟨fun hb => absurd hb (not_or.2 ⟨hwrite 1, hwrite 3⟩),
      fun hb => absurd hb (not_or.2 ⟨hreset, hwrite 9⟩), fun _ _ => hr.seqValid⟩

/-- A consistent state with DEC_VALID 0 reads 0 at every DECODE result register (R26). -/
theorem State.Consistent.readReg_eq_zero {s : State} (h : s.Consistent)
    (hd : s.status.decValid = false) {off : BitVec 8} (lo : 0x40 ≤ off.toNat)
    (hi : off.toNat ≤ 0x94) : s.readReg off = 0 := by
  obtain ⟨hf, ho, hde, hl, he, hc, ht, -⟩ := h.notDecoded hd
  rw [State.readReg, hf, ho, hde, hl, he, hc, ht]
  -- A branch reads a register that is 0, or has its offset outside 0x40 to 0x94.
  split <;> (try rfl) <;> omega

/-- Settles O25: the two outcomes of DECODE set DEC_VALID against ERRCODE; resets clear it, other steps retain
it. -/
theorem decValidTellsTheLastDecode : Obligations.DecValidTellsTheLastDecode := by
  refine ⟨fun s t h => ?_, fun s t h => ?_, fun s h hd off lo hi => h.readReg_eq_zero hd lo hi⟩
  · obtain rfl | rfl := execDecode_cases h
    · simp
    · simp [ErrorKind.code]
  · obtain ⟨rest, hp, rfl⟩ | ⟨w, rest, hp, hw⟩ | ⟨⟨hreset, hwrite⟩, hr⟩ := step_retains_cases h
    · simp [hp]
    · obtain ⟨rfl, rfl⟩ | ⟨rfl, hd⟩ | ⟨rfl, rfl⟩ | ⟨rfl, rfl⟩ | ⟨⟨h1, h3, h8, h9⟩, hr⟩ :=
        runCommand_word_cases hw
      · simp [hp]
      · simp [hp]
      · simp [hp]
      · simp [hp]
      · simp only [hp, List.head?_cons, Option.some.injEq, HostEvent.write.injEq, true_and, reduceCtorEq,
          false_or, hr.decValid]
        exact ⟨fun hb => absurd hb h9, fun _ _ => trivial⟩
    · exact ⟨fun hb => absurd hb (not_or.2 ⟨hreset, hwrite 9⟩), fun _ _ => hr.decValid⟩

theorem State.applyReset_warn (s : State) : s.applyReset.status.word.getLsbD 2 = false
    ∧ s.applyReset.status.warn = false :=
  ⟨Status.word_getLsbD_warn _, rfl⟩

/-- Settles O26: the two outcomes of DECODE write WARN, from the known bits of TT_LIST or as 0. -/
theorem warnTellsThatANameIsMissing : Obligations.WarnTellsThatANameIsMissing := by
  refine ⟨fun s t h => ⟨t.status.word_getLsbD_warn, ?_⟩, fun s t h => ?_, fun s t h hp => ?_⟩
  · obtain rfl | rfl := execDecode_cases h
    · simp [decodedOf, resolveTickets, RefIndex.known]
    · simp
  · cases h
    exact State.applyReset_warn s
  · obtain ⟨rest, -, rfl⟩ | ⟨w, rest, hp', -⟩ | ⟨⟨hreset, -⟩, -⟩ := step_retains_cases h
    · exact State.applyReset_warn _
    · simp [hp'] at hp
    · exact absurd hp hreset

/-- What a command other than SLICE does to a state with another SEQ: the same, but for SEQ (R35). -/
theorem exec_with_seq {i : Instr} {s t : State} (q : Seq) (hi : ∀ start len, i ≠ .slice start len)
    (h : exec i s = .next t) : ∃ t', exec i { s with seq := q } = .next t' ∧ { t' with seq := t.seq } = t := by
  cases i with
  | slice start len => exact absurd rfl (hi start len)
  | nop | build | xdate | clrerr | sreset => cases h; exact ⟨_, rfl, rfl⟩
  | decode => exact ⟨t, h, rfl⟩
  | xloc idx =>
    simp only [exec, execXloc] at h ⊢
    split at h <;> cases h <;> exact ⟨_, rfl, rfl⟩
  | xltot raw =>
    simp only [exec, execXltot] at h ⊢
    split at h <;> cases h <;> exact ⟨_, rfl, rfl⟩
  | ttsel k =>
    simp only [exec, execTtsel] at h ⊢
    split at h
    · rename_i hk
      cases h
      exact ⟨_, if_pos hk, rfl⟩
    · rename_i hk
      rw [if_neg hk]
      split at h <;> cases h <;> exact ⟨_, rfl, rfl⟩

/-- Settles O27: the words and steps that write SEQ, and the commands' meanings that do not read it. -/
theorem seqIsWrittenByBuildAndDecodeAlone : Obligations.SeqIsWrittenByBuildAndDecodeAlone := by
  refine ⟨rfl, fun w s t h => ?_, fun s t h hn => ?_, fun s q a => rfl,
    fun i s t q hi h => exec_with_seq q hi h⟩
  · obtain ⟨rfl, rfl⟩ | ⟨rfl, hd⟩ | ⟨rfl, rfl⟩ | ⟨rfl, rfl⟩ | ⟨⟨h1, h3, h8, h9⟩, hr⟩ :=
      runCommand_word_cases h
    · simp
    · simp [execDecode_seq hd]
    · simp
    · simp
    · rw [if_neg (not_or.2 ⟨h1, h3⟩), if_neg h9, hr.seq]
  · obtain ⟨rest, hp, rfl⟩ | ⟨w, rest, hp, -⟩ | ⟨⟨hreset, -⟩, hr⟩ := step_retains_cases h
    · simp [hp]
    · exact absurd hp (hn w rest)
    · rw [if_neg hreset, hr.seq]

end Sys2Proof.Machine
end

section
/-! The packed registers as numbers, and the bits that they reserve (10_state.md R24, R34, R37 to R42). -/

namespace Sys2Proof.Machine

/-- Bits side by side: the low ones below 2 ^ k, the others from bit k on. -/
theorem or_shift_toNat {x y : Word} {k : Nat} (hx : x.toNat < 2 ^ k)
    (hy : y.toNat * 2 ^ k < 2 ^ 32) : (x ||| y <<< k).toNat = x.toNat + 2 ^ k * y.toNat := by
  rw [BitVec.toNat_or, BitVec.toNat_shiftLeft, Nat.shiftLeft_eq, Nat.mod_eq_of_lt hy, Nat.or_comm,
    Nat.mul_comm, ← Nat.two_pow_add_eq_or_of_lt hx, Nat.add_comm]

/-- A byte as a bus word. -/
theorem byte_toNat (b : Byte) : (b.zeroExtend 32).toNat = b.toNat :=
  BitVec.toNat_setWidth_of_le (by decide)

theorem flagWord_toNat (b : Bool) : (flagWord b).toNat = b.toNat := by
  cases b <;> rfl

theorem packLetters_toNat (c0 c1 : Byte) :
    (packLetters c0 c1).toNat = c0.toNat + 256 * c1.toNat := by
  have h0 := c0.isLt
  have h1 := c1.isLt
  rw [packLetters, or_shift_toNat] <;> simp only [byte_toNat] <;> omega

theorem packLocation_toNat {suffix : Nat} (h : suffix < 65536) (c : Byte) :
    (packLocation suffix c).toNat = suffix + 65536 * c.toNat := by
  have hc := c.isLt
  have hs : (BitVec.ofNat 32 suffix).toNat = suffix := Nat.mod_eq_of_lt (by omega)
  rw [packLocation, or_shift_toNat] <;> simp only [byte_toNat, hs] <;> omega

/-- TT_CODE of an entry: its characters, KNOWN and SEL_VALID (R42). -/
theorem packTicket_toNat (e : TicketEntry) : (packTicket e).toNat
    = e.code.char0.toNat + 256 * e.code.char1.toNat + 65536 * e.code.char2.toNat
      + 16777216 * e.known.toNat + 2147483648 := by
  have h0 := e.code.char0.isLt
  have h1 := e.code.char1.isLt
  have h2 := e.code.char2.isLt
  have hk := e.known.toNat_le
  have e2 : (packLetters e.code.char0 e.code.char1 ||| e.code.char2.zeroExtend 32 <<< 16).toNat
      = e.code.char0.toNat + 256 * e.code.char1.toNat + 65536 * e.code.char2.toNat := by
    rw [or_shift_toNat] <;> simp only [packLetters_toNat, byte_toNat] <;> omega
  have e3 : (packLetters e.code.char0 e.code.char1 ||| e.code.char2.zeroExtend 32 <<< 16
      ||| flagWord e.known <<< 24).toNat = e.code.char0.toNat + 256 * e.code.char1.toNat
        + 65536 * e.code.char2.toNat + 16777216 * e.known.toNat := by
    rw [or_shift_toNat] <;> simp only [e2, flagWord_toNat] <;> omega
  have hp : packTicket e = packLetters e.code.char0 e.code.char1
      ||| e.code.char2.zeroExtend 32 <<< 16 ||| flagWord e.known <<< 24 ||| 1#32 <<< 31 := rfl
  rw [hp, or_shift_toNat (by rw [e3]; omega) (by decide), e3]
  rfl

/-- A mask of n bits from bit lo on sees nothing where those bits are 0. -/
theorem and_mask_eq_zero {x m : Word} (lo n : Nat) (hm : m.toNat = (2 ^ n - 1) * 2 ^ lo)
    (h : x.toNat / 2 ^ lo % 2 ^ n = 0) : x &&& m = 0 := by
  apply BitVec.eq_of_toNat_eq
  rw [BitVec.toNat_and, hm, ← Nat.shiftLeft_eq]
  refine Nat.eq_of_testBit_eq fun i => ?_
  have hb := congrArg (Nat.testBit · (i - lo)) h
  simp only [Nat.testBit_mod_two_pow, Nat.testBit_div_two_pow, Nat.zero_testBit] at hb
  rw [Nat.testBit_and, Nat.testBit_shiftLeft, Nat.testBit_two_pow_sub_one,
    show (0 : Word).toNat = 0 from rfl, Nat.zero_testBit]
  by_cases hi : lo ≤ i
  · rw [Nat.sub_add_cancel hi] at hb
    rw [decide_eq_true hi, Bool.true_and, Bool.and_comm, hb]
  · rw [decide_eq_false hi, Bool.false_and, Bool.and_false]

/-- The outputs of DECODE as they follow from the extracted values (43_decode_resolve.md R140). -/
theorem resolveFields_eq_ok {p : Params} {v : PerField Nat} {d : Decoded}
    (h : resolveFields p v = .ok d) :
    ∃ orig dest l0 l1, d.origCode = packLocation v.origSfx orig
      ∧ d.destCode = packLocation v.destSfx dest ∧ d.ltotCode = packLetters l0 l1
      ∧ d.expiry = Calendar.packDate (Calendar.addDays p.epoch.date v.expiry) := by
  unfold resolveFields at h
  split at h
  · cases h
  · split at h
    · cases h
    · split at h <;> cases h
      exact ⟨_, _, _, _, rfl, rfl, rfl, rfl⟩

/-- The date LUT's entries as numbers: the date's year, month and day, the last two in range (R126, R128). -/
theorem packDate_addDays (e : Epoch) {off : Nat} (h : off < 512) :
    let t := Calendar.addDays e.date off
    (Calendar.packDate t).toNat = 65536 * t.year + 256 * t.month + t.day
      ∧ 1 ≤ t.month ∧ t.month ≤ 12 ∧ 1 ≤ t.day ∧ t.day ≤ 31 := by
  obtain ⟨hv, hy⟩ := Calendar.lutDate_range e off h
  obtain ⟨h1, h2, h3, h4⟩ := (Calendar.validDate_iff _).1 hv
  exact ⟨Calendar.packDate_toNat _ hv hy, h1, h2, h3, h4.trans (Calendar.mdays_range _ _).2⟩

/-- In a consistent state with DEC_VALID 1 the code registers and EXPIRY are packed as DECODE packs them, from
FIELD values of their widths (R37 to R40). -/
theorem State.Consistent.codes {s : State} (h : s.Consistent) (hd : s.status.decValid = true) :
    (∃ n c, n < 65536 ∧ s.origCode = packLocation n c)
      ∧ (∃ n c, n < 65536 ∧ s.destCode = packLocation n c)
      ∧ (∃ l0 l1, s.ltotCode = packLetters l0 l1)
      ∧ ∃ off < 512, s.expiry = Calendar.packDate (Calendar.addDays s.params.epoch.date off) := by
  obtain ⟨orig, dest, l0, l1, ho, hde, hl, he⟩ := resolveFields_eq_ok (h.decoded hd)
  have w1 : s.fields.origSfx.toNat < 2 ^ 10 := h.field_width 1
  have w3 : s.fields.destSfx.toNat < 2 ^ 10 := h.field_width 3
  have w10 : s.fields.expiry.toNat < 2 ^ 9 := h.field_width 10
  exact ⟨⟨_, orig, by simp only [PerField.map]; omega, ho⟩,
    ⟨_, dest, by simp only [PerField.map]; omega, hde⟩, ⟨l0, l1, hl⟩, ⟨_, w10, he⟩⟩

/-- Settles O20: with DEC_VALID 1 EXPIRY is an entry of the date LUT. -/
theorem expiryHoldsADate : Obligations.ExpiryHoldsADate := by
  intro s h
  split
  · rename_i hd
    obtain ⟨-, -, -, off, hoff, he⟩ := h.codes hd
    obtain ⟨hn, hm1, hm2, hd1, hd2⟩ := packDate_addDays s.params.epoch hoff
    rw [← he] at hn
    refine ⟨by omega, by omega, by omega, ?_⟩
    have hmask : (0x0000F0E0 : Word) = 0x0000F000 ||| 0x000000E0 := by decide
    rw [hmask, BitVec.and_or_distrib_left, and_mask_eq_zero 12 4 rfl (by omega),
      and_mask_eq_zero 5 3 rfl (by omega)]
    rfl
  · rename_i hd
    obtain ⟨-, -, -, -, he, -⟩ := h.notDecoded (by simpa using hd)
    exact he

/-- In a consistent state the packed registers are no larger than their used bits (R37 to R39). -/
theorem State.Consistent.codes_lt {s : State} (h : s.Consistent) :
    s.origCode.toNat < 2 ^ 24 ∧ s.destCode.toNat < 2 ^ 24 ∧ s.ltotCode.toNat < 2 ^ 16 := by
  cases hd : s.status.decValid with
  | false =>
    obtain ⟨-, ho, hde, hl, -⟩ := h.notDecoded hd
    rw [ho, hde, hl]
    decide
  | true =>
    obtain ⟨⟨n, c, hn, ho⟩, ⟨m, d, hm, hde⟩, ⟨l0, l1, hl⟩, -⟩ := h.codes hd
    rw [ho, hde, hl, packLocation_toNat hn, packLocation_toNat hm, packLetters_toNat]
    omega

/-- Settles O19: each register fits its used bits, and TT_CODE is 0 or an entry. -/
theorem reservedBitsReadZero : Obligations.ReservedBitsReadZero := by
  intro s h
  obtain ⟨ho, hd, hl⟩ := h.codes_lt
  have hcount := h.count
  have hbound := h.count_bound
  have hf := s.status.flags_toNat_lt
  have hrec : s.rec4Word.toNat = s.rec4.toNat := BitVec.toNat_setWidth_of_le (by decide)
  refine ⟨and_mask_eq_zero 18 14 rfl ?_, and_mask_eq_zero 24 8 rfl ?_,
    and_mask_eq_zero 24 8 rfl ?_, and_mask_eq_zero 24 8 rfl ?_, and_mask_eq_zero 16 16 rfl ?_,
    and_mask_eq_zero 16 16 rfl ?_, and_mask_eq_zero 25 6 rfl ?_⟩
  · change s.status.word.toNat / 2 ^ 18 % 2 ^ 14 = 0
    rw [s.status.word_toNat]
    omega
  · change s.rec4Word.toNat / 2 ^ 24 % 2 ^ 8 = 0
    omega
  · change s.origCode.toNat / 2 ^ 24 % 2 ^ 8 = 0
    omega
  · change s.destCode.toNat / 2 ^ 24 % 2 ^ 8 = 0
    omega
  · change s.ltotCode.toNat / 2 ^ 16 % 2 ^ 16 = 0
    omega
  · change s.ttCount.toNat / 2 ^ 16 % 2 ^ 16 = 0
    omega
  · change s.ttCode.toNat / 2 ^ 25 % 2 ^ 6 = 0
    obtain ht | ⟨e, -, ht⟩ := h.selected
    · rw [ht]
      rfl
    · have hk := e.known.toNat_le
      rw [ht, packTicket_toNat]
      omega

end Sys2Proof.Machine
end

section
/-! The answers of XLTOT, DECODE and TTSEL in numbers (42_domain_luts.md R130, 43_decode_resolve.md R140 to
R148). -/

namespace Sys2Proof.Machine

/-- Settles O41: the abort's error is ALPHABET_RANGE with the halves' bits as sub-code. -/
theorem xltotRejectsLargeHalves : Obligations.XltotRejectsLargeHalves := by
  intro s raw h
  refine ⟨s.abort ⟨.alphabetRange, 0xFF, Alphabet.ltotSub raw⟩, ?_, rfl, ?_, rfl⟩
  · rw [exec, execXltot, Alphabet.ltotChars_of_gt raw h]
  · have he : CmdError.word ⟨.alphabetRange, 0xFF, Alphabet.ltotSub raw⟩
        = 0x0000FF28 ||| ((if 25 < raw / 32 then 0x00010000 else 0)
            ||| (if 25 < raw % 32 then 0x00020000 else 0)) := by
      rw [CmdError.word, Alphabet.ltotSub]
      split_ifs <;> rfl
    rw [State.abort, State.raise_status, Status.word_fail, he]
    simp only [BitVec.or_assoc]
    rfl

/-- STATUS after a DECODE that succeeds, WARN apart (R140, R141). -/
theorem status_of_decoded (t : Status) (w : Bool) :
    Status.word (Status.succeed { t with seqValid := true, decValid := true, warn := w }) &&& 0xFFFFFFFB
      = (t.word &&& 0x00000008) ||| 0x00000003 := by
  rw [t.word_and_of_low _ (by decide), Status.word_of_noError _ rfl rfl rfl]
  obtain ⟨a, b, c, d, x, y, z⟩ := t
  simp only [Status.flags, Status.succeed]
  revert a b c d w
  decide

/-- FIELD[k] reads at offset 0x40 + 4k (10_state.md R22). -/
theorem State.readReg_field (s : State) (k : Fin 11) :
    s.readReg (BitVec.ofNat 8 (0x40 + 4 * k.val)) = s.fields.get k := by
  fin_cases k <;> rfl

/-- Settles O45: FIELD[k] is slicer k's output, which the table's bits of `S` give. -/
theorem decodeReportsTheFields : Obligations.DecodeReportsTheFields := by
  intro s v hi lo
  refine ⟨_, execDecode_success s hi lo, rfl, fun k => ?_, status_of_decoded s.status _, rfl⟩
  rw [State.readReg_field]
  exact decodedOf_field s.params _ k

theorem locationAscii_lt {i : Nat} (h : i < 32) : locationAscii i < 256 := by
  unfold locationAscii
  split <;> omega

/-- A location code in numbers: the suffix, and above it the location character's ASCII code (R37, R38). -/
theorem packLocation_eq {i n : Nat} (hi : i < 32) (hn : n < 65536) :
    packLocation n (BitVec.ofNat 8 (locationAscii i))
      = BitVec.ofNat 32 (n + 65536 * locationAscii i) := by
  have hl := locationAscii_lt hi
  apply BitVec.eq_of_toNat_eq
  rw [packLocation_toNat hn, BitVec.toNat_ofNat, BitVec.toNat_ofNat, Nat.mod_eq_of_lt (by omega),
    Nat.mod_eq_of_lt (by omega)]

/-- Two letters in numbers (R39). -/
theorem packLetters_eq {a b : Nat} (ha : a ≤ 25) (hb : b ≤ 25) :
    packLetters (BitVec.ofNat 8 (0x41 + a)) (BitVec.ofNat 8 (0x41 + b))
      = BitVec.ofNat 32 (0x41 + a + 256 * (0x41 + b)) := by
  apply BitVec.eq_of_toNat_eq
  simp only [packLetters_toNat, BitVec.toNat_ofNat]
  omega

/-- Settles O46: the packed registers in numbers, each field within its width. -/
theorem decodeReportsTheCodes : Obligations.DecodeReportsTheCodes := by
  intro s v hi lo
  have hw (k : Fin 11) : v k < 2 ^ fieldWidth k := fieldValue_lt _ k
  have h0 : v 0 < 2 ^ 5 := hw 0
  have h1 : v 1 < 2 ^ 10 := hw 1
  have h2 : v 2 < 2 ^ 5 := hw 2
  have h3 : v 3 < 2 ^ 10 := hw 3
  obtain ⟨hn, hm1, hm2, hd1, hd2⟩ := packDate_addDays s.params.epoch (hw 10)
  refine ⟨_, execDecode_success s hi lo, packLocation_eq h0 (h1.trans (by decide)),
    packLocation_eq h2 (h3.trans (by decide)), packLetters_eq hi lo, ?_, ?_, ?_⟩
  all_goals
    rw [State.succeed_expiry, State.commitDecode_expiry, decodedOf, hn]
    omega

/-- A code has a name exactly when the name list has a pair for it. -/
theorem known_iff (r : RefIndex) (c : TicketCode) :
    r.known c = true ↔ ∃ n, (c, n) ∈ r.ticketTypeToName := by
  rw [RefIndex.known, List.lookup_isSome_iff]
  simp

/-- Settles O47: TT_LIST is the looked-up codes, each marked by the name list. -/
theorem decodeResolvesTheTickets : Obligations.DecodeResolvesTheTickets := by
  intro s v key hi lo
  have hlen := decodedOf_tickets_length_le s.params (buildSeq s.recByte)
  refine ⟨_, execDecode_success s hi lo, ?_, ?_, ?_, rfl, ?_, Status.word_getLsbD_warn _⟩
  · simp [decodedOf, resolveTickets, RefIndex.lookupTypes, key, v, Function.comp_def]
  · simp [decodedOf, resolveTickets, known_iff]
  · rw [State.succeed_ttCount, State.commitDecode_ttCount, BitVec.toNat_ofNat,
      Nat.mod_eq_of_lt (by omega)]
    rfl
  · simp

/-- TTSEL of an entry below TT_COUNT answers that entry (R148). -/
theorem execTtsel_of_getElem? {s : State} {k : Nat} {e : TicketEntry} (hk : k < s.ttCount.toNat)
    (he : s.ttList[k]? = some e) :
    exec (.ttsel k) s = .next (s.setTtCode (packTicket e)).succeed := by
  rw [exec, execTtsel, if_neg (by omega), he]

/-- Settles O50: the entry packed in TT_CODE, as a number. -/
theorem ttselShowsTheEntry : Obligations.TtselShowsTheEntry := by
  intro s k e hk he
  exact ⟨_, execTtsel_of_getElem? hk he, packTicket_toNat e, Status.word_succeed _, rfl⟩

/-- Every entry shows SEL_VALID, bit 31 (R42). -/
theorem packTicket_selValid (e : TicketEntry) : (packTicket e).getLsbD 31 = true := by
  have h0 := e.code.char0.isLt
  have h1 := e.code.char1.isLt
  have h2 := e.code.char2.isLt
  have hk := e.known.toNat_le
  rw [← BitVec.testBit_toNat, Nat.testBit_eq_decide_div_mod_eq, decide_eq_true_iff, packTicket_toNat]
  omega

/-- Settles O52: TT_COUNT is the length of TT_LIST, so every index below it has its entry. -/
theorem ttselReachesEveryEntry : Obligations.TtselReachesEveryEntry := by
  intro s k h hk
  have hlen : k < s.ttList.length := h.count ▸ hk
  have he : s.ttList[k]? = some s.ttList[k] := List.getElem?_eq_getElem hlen
  refine ⟨_, _, execTtsel_of_getElem? hk he, he, rfl, packTicket_selValid _, rfl⟩

end Sys2Proof.Machine
end

section
/-! The register window byte by byte, the register map, and runs that keep the sequence (10_state.md R22, R33,
20_memory.md R54, R55, 70_reset_and_hazards.md R200). -/

namespace Sys2Proof.Machine

/-- Settles O5: serving a CMD write is running its word. -/
theorem stepRunsTheDecodedCommand : Obligations.StepRunsTheDecodedCommand := by
  intro s w i rest hp hd
  have hs : serve (.write 4 0x04 w) { s with pending := rest }
      = runCommand w { s with pending := rest } := rfl
  rw [step_of_pending hp, hs, runCommand, hd]

/-- A modelled read hands over its register (20_memory.md R54). -/
theorem step_read {s : State} {off : BitVec 8} {rest : List HostEvent}
    (hp : s.pending = .read 4 off :: rest) (h : off.toNat % 4 = 0) :
    step s = .next { s with pending := rest, readLog := s.readLog ++ [s.readReg off] } := by
  rw [step_of_pending hp, serve, if_pos ((accessModelled_iff _ _).2 ⟨rfl, h⟩)]
  rfl

/-- Settles O56: each pair of the map names the register that its offset reads. -/
theorem everyRegisterReadsAtItsOffset : Obligations.EveryRegisterReadsAtItsOffset := by
  intro s off v rest hmem hp
  fin_cases hmem <;> exact ⟨rfl, step_read hp rfl⟩

/-- Byte k of the register at offset 4j is the window byte at 4j + k (20_memory.md R55). -/
theorem State.windowByte_eq (s : State) {j k : Nat} (hk : k < 4) (hj : j < 64) :
    s.windowByte (BitVec.ofNat 8 (4 * j + k)) = byteLane (s.readReg (BitVec.ofNat 8 (4 * j))) k := by
  have ha : (BitVec.ofNat 8 (4 * j + k)).toNat = 4 * j + k := Nat.mod_eq_of_lt (by omega)
  rw [State.windowByte, ha, show (4 * j + k) / 4 * 4 = 4 * j by omega,
    show (4 * j + k) % 4 = k by omega]

/-- REC j reads at offset 0x10 + 4j (10_state.md R22). -/
theorem State.readReg_rec (s : State) {j : Nat} (hj : j < 5) :
    s.readReg (BitVec.ofNat 8 (0x10 + 4 * j)) = s.recWord j := by
  interval_cases j <;> rfl

theorem State.recByte_eq (s : State) {j k : Nat} (hk : k < 4) :
    s.recByte (4 * j + k) = byteLane (s.recWord j) k := by
  rw [State.recByte, show (4 * j + k) / 4 = j by omega, show (4 * j + k) % 4 = k by omega]

/-- Settles O13: every byte view is a byte lane of the register's word, and REC4 has no byte above bit 23. -/
theorem recordBytesInTheHostsView : Obligations.RecordBytesInTheHostsView := by
  refine ⟨fun s j k hk hb => ⟨?_, ?_⟩, fun s => ?_, fun s j k hk hj => ?_⟩
  · rw [s.recByte_eq hk, s.readReg_rec (by omega), byteLane_toNat]
  · rw [show 0x10 + (4 * j + k) = 4 * (4 + j) + k by omega, s.windowByte_eq hk (by omega),
      show 4 * (4 + j) = 0x10 + 4 * j by omega, s.readReg_rec (by omega), s.recByte_eq hk]
  · have hrec : s.rec4Word.toNat = s.rec4.toNat := BitVec.toNat_setWidth_of_le (by decide)
    have hw : s.windowByte 0x23 = byteLane s.rec4Word 3 := rfl
    apply BitVec.eq_of_toNat_eq
    rw [hw, byteLane_toNat, hrec]
    exact Nat.mod_eq_of_lt (by omega : s.rec4.toNat / 2 ^ 24 < 256) |>.trans (Nat.div_eq_of_lt s.rec4.isLt)
  · rw [s.windowByte_eq hk hj, byteLane_toNat]

/-- A modelled event is served (20_memory.md R58). -/
theorem step_total {s : State} {e : HostEvent} {rest : List HostEvent} (hp : s.pending = e :: rest)
    (hm : e.modelled = true) : ∃ t, step s = .next t := by
  rw [step_of_pending hp]
  cases e with
  | read bytes off => exact ⟨_, if_pos hm⟩
  | write bytes off v =>
    have ha : accessModelled bytes off = true := hm
    rw [serve, if_pos ha]
    split
    · unfold runCommand
      split
      · exact exec_total _ _
      · exact ⟨_, rfl⟩
    · exact ⟨_, rfl⟩
  | reset => exact ⟨_, rfl⟩

/-- No command touches the host's accesses to come. -/
theorem Answers.pending {i : Instr} {s t : State} (ha : Answers s i t) : t.pending = s.pending := by
  cases ha <;> rfl

/-- A step takes the oldest event from the list. -/
theorem step_pending {s t : State} {e : HostEvent} {rest : List HostEvent}
    (hp : s.pending = e :: rest) (h : step s = .next t) : t.pending = rest := by
  obtain ⟨hn, -⟩ | ⟨e', rest', hp', he⟩ := step_next_cases h
  · rw [hp] at hn
    cases hn
  · obtain ⟨rfl, rfl⟩ := List.cons.inj (hp.symm.trans hp')
    obtain ⟨off, -, rfl⟩ | ⟨w, -, hw⟩ | ⟨off, v, -, -, rfl⟩ | ⟨-, rfl⟩ := he
    · rfl
    · obtain ⟨i, -, hi⟩ | ⟨-, rfl⟩ := runCommand_cases hw
      · exact (exec_answers hi).pending
      · rfl
    · rw [writeReg_frame]
    · rfl

/-- An event that keeps the sequence is served and leaves SEQ and SEQ_VALID (R25, R35). -/
theorem step_keepsSequence {s : State} {e : HostEvent} {rest : List HostEvent}
    (hp : s.pending = e :: rest) (hk : e.keepsSequence = true) :
    ∃ t, step s = .next t ∧ t.pending = rest ∧ t.seq = s.seq
      ∧ t.status.seqValid = s.status.seqValid := by
  simp only [HostEvent.keepsSequence, Bool.and_eq_true, bne_iff_ne] at hk
  obtain ⟨⟨⟨⟨hm, h0⟩, h1⟩, h3⟩, h9⟩ := hk
  obtain ⟨t, ht⟩ := step_total hp hm
  refine ⟨t, ht, step_pending hp ht, ?_⟩
  obtain ⟨rest', hp', -⟩ | ⟨w, rest', hp', hw⟩ | ⟨-, hr⟩ := step_retains_cases ht
  · exact absurd (List.cons.inj (hp.symm.trans hp')).1 h0
  · obtain ⟨rfl, rfl⟩ := List.cons.inj (hp.symm.trans hp')
    obtain ⟨rfl, -⟩ | ⟨rfl, -⟩ | ⟨-, rfl⟩ | ⟨rfl, -⟩ | ⟨-, hr⟩ := runCommand_word_cases hw
    · exact absurd rfl h1
    · exact absurd rfl h3
    · exact ⟨rfl, rfl⟩
    · exact absurd rfl h9
    · exact ⟨hr.seq, hr.seqValid⟩
  · exact ⟨hr.seq, hr.seqValid⟩

/-- A run of events that keep the sequence. -/
theorem run_keepsSequence (events : List HostEvent) (hk : ∀ e ∈ events, e.keepsSequence = true) :
    ∀ (s : State) (tail : List HostEvent), s.pending = events ++ tail →
      ∃ t, (∀ n, Host.Core.run core (events.length + n) s = Host.Core.run core n t)
        ∧ t.pending = tail ∧ t.seq = s.seq ∧ t.status.seqValid = s.status.seqValid := by
  induction events with
  | nil => exact fun s tail hp => ⟨s, fun n => by simp, hp, rfl, rfl⟩
  | cons e events ih =>
    intro s tail hp
    obtain ⟨he, hes⟩ := List.forall_mem_cons.1 hk
    obtain ⟨u, hu, hup, hus, huv⟩ := step_keepsSequence hp he
    obtain ⟨t, hrun, htp, hts, htv⟩ := ih hes u tail hup
    refine ⟨t, fun n => ?_, htp, hts.trans hus, htv.trans huv⟩
    rw [List.length_cons, Nat.add_right_comm, run_succ_of_step _ hu, hrun]

/-- SLICE in two states with one SEQ and SEQ_VALID leaves the same RESULT and error fields (41_slicers.md
R107). -/
theorem execSlice_congr {s s' : State} (start len : Nat) (hq : s'.seq = s.seq)
    (hv : s'.status.seqValid = s.status.seqValid) :
    ∃ t' t, exec (.slice start len) s' = .next t' ∧ exec (.slice start len) s = .next t
      ∧ t'.result = t.result ∧ t'.status.errCode = t.status.errCode
      ∧ t'.status.errField = t.status.errField ∧ t'.status.errSub = t.status.errSub
      ∧ t'.seq = s.seq ∧ t'.status.seqValid = s.status.seqValid := by
  simp only [exec, execSlice, hq, hv]
  split_ifs
  · exact ⟨_, _, rfl, rfl, rfl, rfl, rfl, rfl, hq, hv⟩
  · exact ⟨_, _, rfl, rfl, rfl, rfl, rfl, rfl, hq, hv⟩
  · split
    · exact ⟨_, _, rfl, rfl, rfl, rfl, rfl, rfl, hq, hv⟩
    · exact ⟨_, _, rfl, rfl, rfl, rfl, rfl, rfl, hq, hv⟩

/-- A REC write keeps the sequence. -/
theorem rec_write_keepsSequence {off : BitVec 8} (v : Word)
    (h : off ∈ ([0x10, 0x14, 0x18, 0x1C, 0x20] : List (BitVec 8))) :
    HostEvent.keepsSequence (.write 4 off v) = true := by
  obtain ⟨hm, hc⟩ : accessModelled 4 off = true ∧ off ≠ 0x04 := by
    revert off
    decide
  have hne (u : Word) : HostEvent.write 4 off v ≠ .write 4 0x04 u := fun he => hc (by injection he)
  simp only [HostEvent.keepsSequence, Bool.and_eq_true, bne_iff_ne]
  exact ⟨⟨⟨⟨hm, nofun⟩, hne 1⟩, hne 3⟩, hne 9⟩

/-- Settles O58: the write and the accesses after it keep SEQ and SEQ_VALID, on which alone SLICE depends. -/
theorem sliceSeesTheOldSequenceUntilARebuild : Obligations.SliceSeesTheOldSequenceUntilARebuild := by
  intro s off v w start len between hp hoff hb hd
  have hk : ∀ e ∈ HostEvent.write 4 off v :: between, e.keepsSequence = true :=
    List.forall_mem_cons.2 ⟨rec_write_keepsSequence v hoff, hb⟩
  obtain ⟨u, hrun, hup, hus, huv⟩ := run_keepsSequence _ hk s [.write 4 0x04 w] hp
  obtain ⟨t, t', ht, ht', hsame⟩ :=
    execSlice_congr (s := s) (s' := { u with pending := [] }) start len hus huv
  have hstep : step u = .next t := (stepRunsTheDecodedCommand u w _ [] hup hd).trans ht
  refine ⟨t, t', ?_, ht', hsame⟩
  rw [show between.length + 2 = (HostEvent.write 4 off v :: between).length + 1 from rfl, hrun,
    run_succ_of_step 0 hstep]
  rfl

end Sys2Proof.Machine
end

section
/-! The register bus: what is refused and what is served, what a read, a REC write and an access without effect
leave, and where the window lies (20_memory.md R50 to R54, R58). -/

namespace Sys2Proof.Machine

/-- The bus does not model an access of another width or alignment (20_memory.md R51). -/
theorem accessModelled_eq_false_iff (bytes : Nat) (off : BitVec 8) :
    accessModelled bytes off = false ↔ bytes ≠ 4 ∨ off.toNat % 4 ≠ 0 := by
  rw [← Bool.not_eq_true, accessModelled_iff, not_and_or]

/-- With no event the block waits (10_state.md R20). -/
theorem step_of_no_event {s : State} (hp : s.pending = []) : step s = .next s := by
  rw [step, serveNext, hp]

/-- A step is refused exactly when the bus does not model its event (20_memory.md R51). -/
theorem step_refused_iff {s : State} {e : HostEvent} {rest : List HostEvent}
    (hp : s.pending = e :: rest) : (∃ r, step s = .refused r) ↔ e.modelled = false := by
  cases hm : e.modelled with
  | true =>
    obtain ⟨t, ht⟩ := step_total hp hm
    simp [ht]
  | false =>
    rw [step_of_pending hp]
    cases e with
    | read bytes off | write bytes off v =>
      exact ⟨fun _ => rfl, fun _ => ⟨_, if_neg (Bool.eq_false_iff.1 hm)⟩⟩
    | reset => cases hm

/-- Settles O8: a waiting block refuses nothing, and an event is refused when it is not modelled. -/
theorem onlyUnmodelledAccessesAreRefused : Obligations.OnlyUnmodelledAccessesAreRefused := by
  intro s
  cases hp : s.pending with
  | nil => simp [step_of_no_event hp]
  | cons e rest =>
    rw [step_refused_iff hp]
    cases e <;> simp [HostEvent.modelled, accessModelled_eq_false_iff]

/-- Settles O9: a block with no event waits, and a modelled event is served. -/
theorem everyModelledEventCompletes : Obligations.EveryModelledEventCompletes := by
  intro s hm
  cases hp : s.pending with
  | nil => exact ⟨s, step_of_no_event hp⟩
  | cons e rest => exact step_total hp (hm e (by rw [hp, List.head?_cons]))

/-- Settles O10: a read takes its event, logs its value and does nothing else. -/
theorem readsHaveNoSideEffect : Obligations.ReadsHaveNoSideEffect := by
  intro s off rest hp h
  exact ⟨_, step_read hp h, rfl, fun _ => rfl, rfl⟩

/-- A modelled write to another register than CMD writes that register (20_memory.md R54). -/
theorem step_write {s : State} {off : BitVec 8} {v : Word} {rest : List HostEvent}
    (hp : s.pending = .write 4 off v :: rest) (h : off.toNat % 4 = 0) (hc : off ≠ cmdOffset) :
    step s = .next (State.writeReg { s with pending := rest } off v) := by
  rw [step_of_pending hp, serve, if_pos ((accessModelled_iff _ _).2 ⟨rfl, h⟩), if_neg hc]

/-- A written REC register reads the data, REC4 its low 24 bits (20_memory.md R54, 10_state.md R34). -/
theorem State.readReg_writeReg_same (s : State) {off : BitVec 8} (v : Word)
    (h : off ∈ ([0x10, 0x14, 0x18, 0x1C, 0x20] : List (BitVec 8))) :
    (s.writeReg off v).readReg off = if off = 0x20 then v &&& 0x00FFFFFF else v := by
  have hlow : (v.setWidth 24).zeroExtend 32 = v &&& 0x00FFFFFF#32 := by
    apply BitVec.eq_of_toNat_eq
    rw [BitVec.toNat_and]
    exact (BitVec.toNat_setWidth_of_le (by decide)).trans
      ((BitVec.toNat_setWidth ..).trans (Nat.and_two_pow_sub_one_eq_mod v.toNat 24).symm)
  fin_cases h
  pick_goal 5
  · exact hlow
  all_goals rfl

/-- A write leaves what every other register reads. -/
theorem State.readReg_writeReg_of_ne (s : State) {a off : BitVec 8} (v : Word) (h : a ≠ off) :
    (s.writeReg off v).readReg a = s.readReg a := by
  have hn : a.toNat ≠ off.toNat := fun he => h (BitVec.eq_of_toNat_eq he)
  unfold State.writeReg
  split
  case h_6 => rfl
  all_goals
    simp only [State.readReg]
    -- A branch reads a field that the write left, or has `a` at the written offset.
    split <;> try rfl
    omega

/-- The REC registers are at multiples of 4, and none is CMD (10_state.md R22). -/
theorem rec_offset {off : BitVec 8} (h : off ∈ ([0x10, 0x14, 0x18, 0x1C, 0x20] : List (BitVec 8))) :
    off.toNat % 4 = 0 ∧ off ≠ cmdOffset := by
  revert off
  decide

/-- Settles O11: a REC write is one `writeReg`, which has its own register and nothing else. -/
theorem recordWritesReadBack : Obligations.RecordWritesReadBack := by
  intro s off v rest hp hoff
  obtain ⟨h, hc⟩ := rec_offset hoff
  exact ⟨_, step_write hp h hc, State.readReg_writeReg_same _ v hoff,
    fun a ha => State.readReg_writeReg_of_ne _ v ha, writeReg_frame _ off v⟩

/-- A register write below or above the REC registers has no effect (20_memory.md R52, R53). -/
theorem State.writeReg_eq_self (s : State) {off : BitVec 8} (v : Word)
    (h : off.toNat < 0x10 ∨ 0x20 < off.toNat) : s.writeReg off v = s := by
  unfold State.writeReg
  split
  case h_6 => rfl
  all_goals omega

/-- CMD and the reserved offsets read 0 (20_memory.md R52, 10_state.md R32). -/
theorem State.readReg_eq_zero (s : State) {off : BitVec 8}
    (h : off.toNat = 0x04 ∨ off.toNat = 0x0C ∨ (0x24 ≤ off.toNat ∧ off.toNat ≤ 0x3C)
      ∨ (0x6C ≤ off.toNat ∧ off.toNat ≤ 0x7C) ∨ 0x9C ≤ off.toNat) : s.readReg off = 0 := by
  unfold State.readReg
  split
  case h_26 => rfl
  all_goals omega

/-- Settles O12: the read logs 0, and the write leaves the state that took the event. -/
theorem reservedAndReadOnlyAccesses : Obligations.ReservedAndReadOnlyAccesses := by
  intro s off v rest h reserved readOnly
  refine ⟨fun hr hp => ?_, fun hr hp => ?_⟩
  · rw [step_read hp h, s.readReg_eq_zero hr.symm]
  · simp only [reserved, readOnly] at hr
    have hc : off ≠ cmdOffset := by
      rintro rfl
      simp [cmdOffset] at hr
    rw [step_write hp h hc, State.writeReg_eq_self _ v (by omega)]

/-- Settles O14: an offset is below 256, so BASE + off lies in the window and nothing outside it does. -/
theorem windowLiesAtBase : Obligations.WindowLiesAtBase := by
  refine fun p addr => ⟨fun off => ?_, fun h => if_neg (by omega)⟩
  have hoff := off.isLt
  rw [Params.windowOffset, if_pos (by omega), Nat.add_sub_cancel_left, BitVec.ofNat_toNat,
    BitVec.setWidth_eq]

end Sys2Proof.Machine
end

section
/-! Running a command again, and what a DECODE depends on (20_memory.md R59, 43_decode_resolve.md R141). -/

namespace Sys2Proof.Machine

@[simp] theorem State.abort_seq (s : State) (e : CmdError) : (s.abort e).seq = s.seq := rfl
@[simp] theorem State.finish_seq (s : State) (v : Word) : (s.finish v).seq = s.seq := rfl
@[simp] theorem State.abort_seqValid (s : State) (e : CmdError) :
    (s.abort e).status.seqValid = s.status.seqValid := rfl
@[simp] theorem State.finish_seqValid (s : State) (v : Word) :
    (s.finish v).status.seqValid = s.status.seqValid := rfl
@[simp] theorem State.abort_abort (s : State) (e e' : CmdError) : (s.abort e).abort e' = s.abort e' := rfl
@[simp] theorem State.finish_finish (s : State) (v v' : Word) : (s.finish v).finish v' = s.finish v' := rfl
@[simp] theorem State.raise_raise (s : State) (e e' : CmdError) : (s.raise e).raise e' = s.raise e' := rfl

/-- A command run again does what it did: its own writes leave the case it takes and the values it writes
(20_memory.md R59). -/
theorem exec_idempotent {i : Instr} {s t : State} (h : exec i s = .next t) : exec i t = .next t := by
  cases i with
  | nop | build | xdate | clrerr | sreset => cases h; rfl
  | slice start len =>
    simp only [exec, execSlice] at h
    split_ifs at h with hv hl
    · cases h
      simp [exec, execSlice, hv]
    · cases h
      simp [exec, execSlice, hv, hl]
    · split at h <;> rename_i hx <;> cases h <;> simp [exec, execSlice, hv, hl, hx]
  | decode =>
    by_cases hr : fieldValue (buildSeq s.recByte) 5 / 32 ≤ 25
        ∧ fieldValue (buildSeq s.recByte) 5 % 32 ≤ 25
    · rw [execDecode_success s hr.1 hr.2] at h
      cases h
      exact execDecode_success _ hr.1 hr.2
    · have hf : 25 < fieldValue (buildSeq s.recByte) 5 / 32
          ∨ 25 < fieldValue (buildSeq s.recByte) 5 % 32 := by omega
      rw [execDecode_failure s hf] at h
      cases h
      exact execDecode_failure (s.rebuild.clearDecode.raise _) hf
  | xloc idx =>
    simp only [exec, execXloc] at h ⊢
    split at h <;> cases h <;> rfl
  | xltot raw =>
    simp only [exec, execXltot] at h ⊢
    split at h <;> cases h <;> rfl
  | ttsel k =>
    simp only [exec, execTtsel] at h
    split at h
    · rename_i hk
      cases h
      exact if_pos hk
    · rename_i hk
      split at h <;> rename_i he <;> cases h
      · simp [exec, execTtsel, hk, he]
      · exact execTtsel_of_getElem? (s := (s.setTtCode _).succeed) (Nat.lt_of_not_le hk) he

/-- Settles O28: a word runs its command or raises ILLEGAL_CMD, and each is idempotent. -/
theorem commandsAreIdempotent : Obligations.CommandsAreIdempotent := by
  intro w s t h
  obtain ⟨i, hd, hi⟩ | ⟨⟨r, hd⟩, rfl⟩ := runCommand_cases h
  · rw [runCommand, hd]
    exact exec_idempotent hi
  · rw [runCommand, hd]
    exact congrArg _ (s.raise_raise _ _)

/-- STATUS without its bit 3 does not show STICKY_ERR (10_state.md R24). -/
theorem Status.word_with_stickyErr (t : Status) (b : Bool) :
    Status.word { t with stickyErr := b } &&& 0xFFFFFFF7 = t.word &&& 0xFFFFFFF7 := by
  have hz (c : Bool) : flagWord c <<< 3 &&& (0xFFFFFFF7 : Word) = 0 := by cases c <;> rfl
  simp only [Status.word, BitVec.and_or_distrib_right, hz]

/-- States with the same REC registers have the same record bytes (10_state.md R33). -/
theorem State.recByte_congr {s s' : State} (h : ∀ j < 5, s.recWord j = s'.recWord j) :
    s.recByte = s'.recByte := by
  funext i
  have hw : s.recWord (i / 4) = s'.recWord (i / 4) := by
    by_cases hi : i / 4 < 5
    · exact h _ hi
    · match hk : i / 4, hi with
      | k + 5, _ => rfl
  rw [State.recByte, hw, State.recByte]

/-- The states agree in all that a DECODE writes but STICKY_ERR (43_decode_resolve.md R140, R141). -/
structure State.SameDecode (t t' : State) : Prop where
  seq : t.seq = t'.seq
  fields : t.fields = t'.fields
  origCode : t.origCode = t'.origCode
  destCode : t.destCode = t'.destCode
  ltotCode : t.ltotCode = t'.ltotCode
  expiry : t.expiry = t'.expiry
  ttCount : t.ttCount = t'.ttCount
  ttCode : t.ttCode = t'.ttCode
  ttList : t.ttList = t'.ttList
  status : t.status = { t'.status with stickyErr := t.status.stickyErr }

theorem State.SameDecode.readReg_eq {t t' : State} (h : t.SameDecode t') {off : BitVec 8}
    (lo : 0x40 ≤ off.toNat) (hi : off.toNat ≤ 0x94) : t.readReg off = t'.readReg off := by
  rw [State.readReg, State.readReg, h.fields, h.origCode, h.destCode, h.ltotCode, h.expiry, h.ttCount,
    h.ttCode]
  -- A branch reads one of these registers, or has its offset outside 0x40 to 0x94.
  split <;> try rfl
  all_goals omega

theorem State.SameDecode.word_eq {t t' : State} (h : t.SameDecode t') :
    t.status.word &&& 0xFFFFFFF7 = t'.status.word &&& 0xFFFFFFF7 := by
  rw [h.status, Status.word_with_stickyErr]

/-- DECODE in two states with one record and the same parameters (43_decode_resolve.md R141). -/
theorem execDecode_sameDecode {s s' t t' : State} (h : exec .decode s = .next t)
    (h' : exec .decode s' = .next t') (hb : s.recByte = s'.recByte) (hp : s.params = s'.params) :
    t.SameDecode t' := by
  by_cases hr : fieldValue (buildSeq s'.recByte) 5 / 32 ≤ 25
      ∧ fieldValue (buildSeq s'.recByte) 5 % 32 ≤ 25
  · rw [execDecode_success s (by rw [hb]; exact hr.1) (by rw [hb]; exact hr.2), hb, hp] at h
    rw [execDecode_success s' hr.1 hr.2] at h'
    cases h
    cases h'
    constructor <;> simp [hb, Status.succeed]
  · rw [execDecode_failure s (by rw [hb]; omega), hb] at h
    rw [execDecode_failure s' (by omega)] at h'
    cases h
    cases h'
    constructor <;> simp [hb, Status.fail]

/-- Settles O29: one record is one sequence, and the two DECODEs write the same from it. -/
theorem decodeDependsOnlyOnTheRecord : Obligations.DecodeDependsOnlyOnTheRecord := by
  intro s s' t t' h h' hrec hp
  have hd := execDecode_sameDecode h h' (State.recByte_congr hrec) hp
  exact ⟨hd.seq, hd.fields, hd.ttList, fun off lo hi => hd.readReg_eq lo hi, hd.word_eq⟩

end Sys2Proof.Machine
end

section
/-! The encoding as arithmetic: the number that a command's word is, and the decoder as the inverse of it
(30_encoding.md R71, R74, R76). -/

namespace Sys2Proof

/-- The word of a command as a number: its opcode, and its operands side by side above it (30_encoding.md
R71, R76). -/
def Instr.number : Instr → Nat
  | .nop => 0
  | .build => 1
  | .slice start len => 2 + 2 ^ 8 * start + 2 ^ 16 * len
  | .decode => 3
  | .xloc idx => 4 + 2 ^ 8 * idx
  | .xltot raw => 5 + 2 ^ 8 * raw
  | .xdate off => 6 + 2 ^ 8 * off
  | .ttsel k => 7 + 2 ^ 8 * k
  | .clrerr => 8
  | .sreset => 9

theorem slice_wellFormed_iff (start len : Nat) :
    (Instr.slice start len).WellFormed ↔ start < 256 ∧ len < 64 := by
  rw [Instr.WellFormed, Instr.wellFormed, Bool.and_eq_true, decide_eq_true_iff, decide_eq_true_iff]

/-- A number put above a word's bits is added to it. -/
theorem toNat_or_shiftLeft {a : Word} {n k : Nat} (ha : a.toNat < 2 ^ k) (hn : 2 ^ k * n < 2 ^ 32) :
    (a ||| BitVec.ofNat 32 n <<< k).toNat = a.toNat + 2 ^ k * n := by
  have hn' : n < 2 ^ 32 := (Nat.le_mul_of_pos_left n (Nat.two_pow_pos k)).trans_lt hn
  rw [BitVec.toNat_or, BitVec.toNat_shiftLeft, BitVec.toNat_ofNat, Nat.mod_eq_of_lt hn',
    Nat.shiftLeft_eq, Nat.mul_comm n, Nat.mod_eq_of_lt hn, Nat.or_comm,
    ← Nat.two_pow_add_eq_or_of_lt ha, Nat.add_comm]

/-- The encoding formulas as a sum (30_encoding.md R76). -/
theorem encode_toNat {i : Instr} (h : i.WellFormed) : (encode i).toNat = i.number := by
  cases i with
  | nop | build | decode | clrerr | sreset => rfl
  | slice start len =>
    obtain ⟨hs, hl⟩ := (slice_wellFormed_iff start len).1 h
    have hlow : ((2 : Word) ||| BitVec.ofNat 32 start <<< 8).toNat = 2 + 2 ^ 8 * start :=
      toNat_or_shiftLeft (by decide) (by omega)
    have hw : (encode (.slice start len)).toNat = _ :=
      toNat_or_shiftLeft (hlow.trans_lt (by omega)) (by omega)
    exact hw.trans (congrArg (· + 2 ^ 16 * len) hlow)
  | xloc n | xltot n | xdate n | ttsel n =>
    have hn := of_decide_eq_true h
    exact toNat_or_shiftLeft (by decide) (by omega)

/-- A mask of the bits from `b` up finds none of them set in the numbers below `2 ^ b`. -/
theorem and_mask_eq_zero_iff (w : Word) (b : Nat) {mask : Word}
    (hm : mask = BitVec.allOnes 32 <<< b) : w &&& mask = 0 ↔ w.toNat < 2 ^ b := by
  subst hm
  constructor
  · intro h
    refine Nat.lt_pow_two_of_testBit _ fun i hi => ?_
    have hbit := congrArg (·.getLsbD i) h
    change w.getLsbD i = false
    by_cases h32 : i < 32
    · have hlt : i - b < 32 := by omega
      simpa only [BitVec.getLsbD_and, BitVec.getLsbD_shiftLeft, BitVec.getLsbD_allOnes, h32, hlt,
        Nat.not_lt.2 hi, decide_true, decide_false, Bool.not_false, Bool.and_true,
        BitVec.ofNat_eq_ofNat, BitVec.getLsbD_zero] using hbit
    · exact w.getLsbD_of_ge i (by omega)
  · intro h
    apply BitVec.eq_of_getLsbD_eq
    intro i h32
    by_cases hi : i < b
    · simp [hi]
    · have hbit : w.getLsbD i = false :=
        Nat.testBit_lt_two_pow (h.trans_le (Nat.pow_le_pow_right (by decide) (by omega)))
      simp [hbit]

/-- The opcode as a number (30_encoding.md R70). -/
theorem opcodeOf_toNat (w : Word) : (opcodeOf w).toNat = w.toNat % 256 := by
  rw [opcodeOf, BitVec.extractLsb'_toNat, Nat.shiftRight_zero]

/-- An operand field as a number (30_encoding.md R72). -/
theorem operandOf_eq (w : Word) (lo width : Nat) :
    operandOf w lo width = w.toNat / 2 ^ lo % 2 ^ width := by
  rw [operandOf, BitVec.extractLsb'_toNat, Nat.shiftRight_eq_div_pow]

end Sys2Proof

namespace Sys2Proof.Machine

open Laws.EncodedFormat (firstReserved)

/-- The command of an opcode with the operand fields of the word of number `n` (30_encoding.md R71, R73); of
the last row from 9 on. -/
def fieldsOf (n : Nat) : Nat → Instr
  | 0 => .nop
  | 1 => .build
  | 2 => .slice (n / 256 % 256) (n / 65536 % 64)
  | 3 => .decode
  | 4 => .xloc (n / 256 % 64)
  | 5 => .xltot (n / 256 % 1024)
  | 6 => .xdate (n / 256 % 512)
  | 7 => .ttsel (n / 256 % 65536)
  | 8 => .clrerr
  | _ => .sreset

/-- The decoder: a defined opcode's command, unless a bit from its first reserved bit on is set (30_encoding.md
R74). -/
theorem decode_of_opcode_le {w : Word} (h : w.toNat % 256 ≤ 9) :
    decode w = unlessReserved
      (BitVec.allOnes 32 <<< firstReserved (fieldsOf w.toNat (w.toNat % 256))) w
      (fieldsOf w.toNat (w.toNat % 256)) := by
  rw [decode, opcodeOf_toNat]
  generalize w.toNat % 256 = op at h
  interval_cases op <;> simp only [operandOf_eq, fieldsOf, firstReserved] <;> rfl

/-- An opcode above 9 is no command's (30_encoding.md R74). -/
theorem decode_of_opcode_gt {w : Word} (h : 9 < w.toNat % 256) :
    decode w = .error (.undefinedOpcode (opcodeOf w)) := by
  rw [decode, opcodeOf_toNat]
  split
  case h_11 => rfl
  all_goals omega

/-- A word decodes to the command of its opcode and fields, when it has one and no reserved bit
(30_encoding.md R74). -/
theorem decode_eq_ok_iff_fields {w : Word} {i : Instr} : decode w = .ok i
    ↔ w.toNat % 256 ≤ 9 ∧ w.toNat < 2 ^ firstReserved i ∧ fieldsOf w.toNat (w.toNat % 256) = i := by
  by_cases h9 : w.toNat % 256 ≤ 9
  · rw [decode_of_opcode_le h9, unlessReserved_eq_ok_iff, and_mask_eq_zero_iff w _ rfl,
      and_iff_right h9]
    exact and_congr_left fun hi => by rw [hi]
  · rw [decode_of_opcode_gt (Nat.lt_of_not_le h9)]
    exact ⟨nofun, fun h => absurd h.1 h9⟩

/-- A number with a defined opcode and nothing above its fields is that of the command read off it. -/
theorem number_fieldsOf {n : Nat} (h9 : n % 256 ≤ 9)
    (hb : n < 2 ^ firstReserved (fieldsOf n (n % 256))) :
    (fieldsOf n (n % 256)).WellFormed ∧ n = (fieldsOf n (n % 256)).number := by
  generalize hop : n % 256 = op at h9 hb
  interval_cases op <;>
    simp only [fieldsOf, firstReserved, Instr.WellFormed, Instr.wellFormed, Instr.number,
      Bool.and_eq_true, decide_eq_true_iff, true_and] at hb ⊢ <;> omega

/-- A command that fits is read off its number (30_encoding.md R71, R76). -/
theorem fieldsOf_number {i : Instr} (h : i.WellFormed) : i.number % 256 ≤ 9
    ∧ i.number < 2 ^ firstReserved i ∧ fieldsOf i.number (i.number % 256) = i := by
  cases i with
  | nop | build | decode | clrerr | sreset => decide
  | slice start len =>
    obtain ⟨hs, hl⟩ := (slice_wellFormed_iff start len).1 h
    have hop : (Instr.slice start len).number % 256 = 2 := by rw [Instr.number]; omega
    rw [hop, fieldsOf, firstReserved, Instr.slice.injEq, Instr.number]
    omega
  | xloc n | xltot n | xdate n | ttsel n =>
    have hn := of_decide_eq_true h
    simp only [Instr.number, firstReserved, fieldsOf, Nat.reducePow, Nat.add_mul_mod_self_left,
      Nat.reduceMod, Instr.xloc.injEq, Instr.xltot.injEq, Instr.xdate.injEq, Instr.ttsel.injEq]
    omega

/-- The decoder is the inverse of the numbering (30_encoding.md R74, R76). -/
theorem decode_eq_ok_iff_number {w : Word} {i : Instr} :
    decode w = .ok i ↔ i.WellFormed ∧ w.toNat = i.number := by
  rw [decode_eq_ok_iff_fields]
  constructor
  · rintro ⟨h9, hb, rfl⟩
    exact number_fieldsOf h9 hb
  · rintro ⟨h, hw⟩
    rw [hw]
    exact fieldsOf_number h

/-- Settles O1: the word of a command that fits has the command's number, and decodes by it. -/
theorem decodeOfEncodeIsTheCommand : Obligations.DecodeOfEncodeIsTheCommand :=
  fun _ h => decode_eq_ok_iff_number.2 ⟨h, encode_toNat h⟩

/-- Settles O2: a word that decodes has the number of its command, as the command's word does. -/
theorem encodeOfDecodeIsTheWord : Obligations.EncodeOfDecodeIsTheWord := by
  intro w i hd
  obtain ⟨h, hw⟩ := decode_eq_ok_iff_number.1 hd
  exact ⟨BitVec.eq_of_toNat_eq ((encode_toNat h).trans hw.symm), h⟩

/-- Settles O4: each word is that of its command by the encoding formulas, so O1 decodes it. -/
theorem sampleWordsDecode : Obligations.SampleWordsDecode :=
  have back := decodeOfEncodeIsTheCommand
  ⟨back .build rfl, back (.slice 171 5) rfl, back (.xloc 16) rfl, back (.xltot 825) rfl,
    back (.xdate 511) rfl, back (.ttsel 65535) rfl, back .sreset rfl⟩

end Sys2Proof.Machine
end

section
/-! Words that are no commands: the decoder's rejections and ILLEGAL_CMD (30_encoding.md R74, R75,
60_exceptions.md R174). -/

namespace Sys2Proof.Machine

open Laws.EncodedFormat (firstReserved)

/-- A word that decodes runs its command (30_encoding.md R74). -/
theorem runCommand_of_ok {w : Word} {i : Instr} (h : decode w = .ok i) (s : State) :
    runCommand w s = exec i s := by
  rw [runCommand, h]

/-- A word that is no command raises ILLEGAL_CMD and does nothing else (30_encoding.md R75). -/
theorem runCommand_of_error {w : Word} {r : Reject} (h : decode w = .error r) (s : State) :
    runCommand w s = .next (s.raise (.plain .illegalCmd)) := by
  rw [runCommand, h]

/-- A word is rejected or decodes. -/
theorem decode_error_iff (w : Word) : (∃ r, decode w = .error r) ↔ ∀ i, decode w ≠ .ok i := by
  cases decode w <;> simp

/-- Settles O6: the CMD write is served by raising ILLEGAL_CMD, which writes STATUS alone. -/
theorem illegalCommandOnlyRecordsTheError : Obligations.IllegalCommandOnlyRecordsTheError := by
  intro s w r rest hp hd
  have hs : step s = runCommand w { s with pending := rest } := step_of_pending hp
  exact ⟨_, hs.trans (runCommand_of_error hd _), s.status.word_fail (.plain .illegalCmd), rfl⟩

/-- The words that are no command, by opcode and first reserved bit (30_encoding.md R74). -/
theorem decode_error_iff_fields (w : Word) : (∃ r, decode w = .error r)
    ↔ 9 < w.toNat % 256
      ∨ 2 ^ firstReserved (fieldsOf w.toNat (w.toNat % 256)) ≤ w.toNat := by
  simp only [decode_error_iff, ne_eq, decode_eq_ok_iff_fields]
  constructor
  · intro h
    by_contra hn
    exact h _ ⟨by omega, by omega, rfl⟩
  · rintro h i ⟨h9, hb, rfl⟩
    omega

/-- Settles O3: the listed masks are the bits from the first reserved one on, so the words listed are those with
an undefined opcode or a reserved bit, and every other decodes to the command of its opcode and fields. -/
theorem decoderFollowsTheOpcodeMap : Obligations.DecoderFollowsTheOpcodeMap := by
  intro w op rejected
  have hN : w &&& 0xFFFFFF00 = 0 ↔ w.toNat < 2 ^ 8 := and_mask_eq_zero_iff w 8 rfl
  have hS : w &&& 0xFFC00000 = 0 ↔ w.toNat < 2 ^ 22 := and_mask_eq_zero_iff w 22 rfl
  have hI6 : w &&& 0xFFFFC000 = 0 ↔ w.toNat < 2 ^ 14 := and_mask_eq_zero_iff w 14 rfl
  have hI10 : w &&& 0xFFFC0000 = 0 ↔ w.toNat < 2 ^ 18 := and_mask_eq_zero_iff w 18 rfl
  have hI9 : w &&& 0xFFFE0000 = 0 ↔ w.toNat < 2 ^ 17 := and_mask_eq_zero_iff w 17 rfl
  have hK : w &&& 0xFF000000 = 0 ↔ w.toNat < 2 ^ 24 := and_mask_eq_zero_iff w 24 rfl
  have hrej : rejected ↔ 9 < op ∨ 2 ^ firstReserved (fieldsOf w.toNat op) ≤ w.toNat := by
    simp only [rejected, ne_eq, hN, hS, hI6, hI10, hI9, hK]
    rcases Nat.lt_or_ge 9 op with h9 | h9
    · simp [h9]
    · generalize op = o at h9
      interval_cases o <;> simp [fieldsOf, firstReserved]
  have herr : (∃ r, decode w = .error r) ↔ rejected := (decode_error_iff_fields w).trans hrej.symm
  refine ⟨herr, fun hr s => ?_, fun hr => ?_, fun s i hd => runCommand_of_ok hd s⟩
  · obtain ⟨r, hd⟩ := herr.2 hr
    exact runCommand_of_error hd s
  · rw [hrej, not_or, Nat.not_lt, Nat.not_le] at hr
    have hok : decode w = .ok (fieldsOf w.toNat op) := decode_eq_ok_iff_fields.2 ⟨hr.1, hr.2, rfl⟩
    refine ⟨?_, ?_, ?_, ?_, ?_, ?_, ?_, ?_, ?_, ?_⟩ <;> (intro h; rw [h] at hok; exact hok)

end Sys2Proof.Machine
end

section
/-! LOADREC: the texts it takes and the record its writes leave (30_encoding.md R79, 70_reset_and_hazards.md
R196). -/

namespace Sys2Proof.Machine

/-- The writes of LOADREC for the bytes of its text (30_encoding.md R79). -/
def recordWrites (bs : List Byte) : List HostEvent :=
  [busWrite 0x10 (packWord bs 0), busWrite 0x14 (packWord bs 1), busWrite 0x18 (packWord bs 2),
    busWrite 0x1C (packWord bs 3), busWrite 0x20 (packWord bs 4)]

theorem loadRec_eq_some_iff (digits : List Char) (events : List HostEvent) :
    loadRec digits = some events
      ↔ digits.length = 38 ∧ ∃ bs, hexBytes digits = some bs ∧ recordWrites bs = events := by
  by_cases hl : digits.length = 38
  · rw [loadRec, if_pos hl, Option.map_eq_some_iff, and_iff_right hl]
    rfl
  · rw [loadRec, if_neg hl]
    exact ⟨nofun, fun h => absurd h.1 hl⟩

/-- LOADREC takes the texts of 38 hex digits (30_encoding.md R79). -/
theorem loadRec_isSome_iff (digits : List Char) : (∃ events, loadRec digits = some events)
    ↔ digits.length = 38 ∧ ∀ c ∈ digits, ∃ h, SpellsDigit c h := by
  simp only [loadRec_eq_some_iff, exists_and_left]
  refine and_congr_right fun hl => ?_
  have hbytes := hexBytes_isSome_iff digits
  rw [hl, and_iff_right (by decide)] at hbytes
  rw [← hbytes]
  exact ⟨fun ⟨_, bs, hb, _⟩ => ⟨bs, hb⟩, fun ⟨bs, hb⟩ => ⟨_, bs, hb, rfl⟩⟩

/-- Settles O59: a text is refused when it is not taken. -/
theorem loadrecTakesExactly38HexDigits : Obligations.LoadrecTakesExactly38HexDigits := by
  intro digits
  refine ⟨loadRec_isSome_iff digits, ?_⟩
  rw [Option.eq_none_iff_forall_ne_some, ← not_exists, loadRec_isSome_iff, not_and_or]
  simp only [not_forall, not_exists, exists_prop, ne_eq]

/-- The state with the bytes in the record and nothing left to serve. -/
def State.withBytes (s : State) (bs : List Byte) : State :=
  { s with
    rec0 := packWord bs 0, rec1 := packWord bs 1, rec2 := packWord bs 2, rec3 := packWord bs 3
    rec4 := (packWord bs 4).setWidth 24, pending := [] }

/-- The five writes, served (20_memory.md R54). -/
theorem run_recordWrites {s : State} {bs : List Byte} (hp : s.pending = recordWrites bs) :
    Host.Core.run core 5 s = .next (s.withBytes bs) := by
  rw [run_succ_of_step 4 (step_write hp rfl (by decide)),
    run_succ_of_step 3 (step_write rfl rfl (by decide)),
    run_succ_of_step 2 (step_write rfl rfl (by decide)),
    run_succ_of_step 1 (step_write rfl rfl (by decide)),
    run_succ_of_step 0 (step_write rfl rfl (by decide))]
  rfl

/-- REC4 keeps the three low byte lanes of what is written (10_state.md R34). -/
theorem byteLane_low24 (v : Word) {k : Nat} (hk : k < 3) :
    byteLane ((v.setWidth 24).zeroExtend 32) k = byteLane v k := by
  have hv : ((v.setWidth 24).zeroExtend 32).toNat = v.toNat % 2 ^ 24 :=
    (BitVec.toNat_setWidth_of_le (by decide)).trans (BitVec.toNat_setWidth ..)
  apply BitVec.eq_of_toNat_eq
  rw [byteLane_toNat, byteLane_toNat, hv]
  interval_cases k <;> omega

/-- Record byte i is byte i (10_state.md R33). -/
theorem State.recByte_withBytes (s : State) (bs : List Byte) {i : Nat} (hi : i < 19) :
    (s.withBytes bs).recByte i = bs.getD i 0 := by
  have hk : i % 4 < 4 := Nat.mod_lt _ (by decide)
  have hlane : (s.withBytes bs).recByte i = byteLane (packWord bs (i / 4)) (i % 4) := by
    rw [State.recByte]
    obtain hj | hj : i / 4 < 4 ∨ i / 4 = 4 := by omega
    · generalize i / 4 = j at hj
      interval_cases j <;> rfl
    · rw [hj]
      exact byteLane_low24 _ (by omega)
  rw [hlane, packWord_byteLane bs _ _ hk, Nat.div_add_mod]

/-- Settles O54: the writes put byte i of the text in record byte i, and byte i is the digits 2i and 2i + 1. -/
theorem loadrecLoadsTheHexText : Obligations.LoadrecLoadsTheHexText := by
  intro s digits events hload hp
  obtain ⟨hl, bs, hb, rfl⟩ := (loadRec_eq_some_iff digits events).1 hload
  refine ⟨_, run_recordWrites hp, rfl, rfl, rfl, fun i hi => ?_⟩
  obtain ⟨c, d, h, l, hc, hd, hh, hl', hbyte⟩ := hexBytes_getElem digits bs hb i (by omega)
  have := spellsDigit_lt hh
  have := spellsDigit_lt hl'
  refine ⟨c, d, h, l, hc, hd, hh, hl', ?_⟩
  rw [s.recByte_withBytes bs hi, List.getD_eq_getElem?_getD, hbyte, Option.getD_some, BitVec.toNat_ofNat]
  omega

end Sys2Proof.Machine
end

section
/-! The bit reversal undone, and BUILD as a command (40_bit_reorder.md R90, R91, R93, R94). -/

namespace Sys2Proof.Machine

theorem reverse8_reverse8 (b : Byte) : reverse8 (reverse8 b) = b := by
  apply BitVec.eq_of_getLsbD_eq
  intro j hj
  rw [reverse8_getLsbD _ _ hj, reverse8_getLsbD _ _ (by omega)]
  exact congrArg _ (by omega)

/-- Byte i of `build`'s output, from the top, is record byte i reversed (R91). -/
theorem buildSeq_extractLsb' (f : Nat → Byte) {i : Nat} (hi : i < 19) :
    (buildSeq f).extractLsb' (144 - 8 * i) 8 = reverse8 (f i) := by
  apply BitVec.eq_of_getLsbD_eq
  intro j hj
  have hbit : 144 - 8 * i + j = 151 - (8 * i + (7 - j)) := by omega
  rw [BitVec.getLsbD_extractLsb', decide_eq_true hj, Bool.true_and, hbit,
    buildSeq_getLsbD f i (7 - j) hi (by omega), reverse8_getLsbD _ _ hj]

/-- R94: reversing the bytes of `build`'s output gives the record back. -/
theorem reverse8_buildSeq (f : Nat → Byte) {i : Nat} (hi : i < 19) :
    reverse8 ((buildSeq f).extractLsb' (144 - 8 * i) 8) = f i := by
  rw [buildSeq_extractLsb' f hi, reverse8_reverse8]

/-- Settles O33: `reverse8` undoes itself, so the bytes of `build`'s output determine the record's. -/
theorem reversalAndBuildAreInvertible : Obligations.ReversalAndBuildAreInvertible := by
  refine ⟨reverse8_getLsbD, by decide, by decide, reverse8_reverse8,
    fun _ _ => reverse8_buildSeq _, fun rec rec' h i hi => ?_⟩
  rw [← reverse8_buildSeq rec hi, h, reverse8_buildSeq rec' hi]

/-- Setting SEQ_VALID sets STATUS[0] and keeps the other flags (10_state.md R24). -/
theorem Status.flags_setSeqValid (t : Status) :
    Status.flags { t with seqValid := true } = (t.flags &&& 14#32) ||| 1#32 := by
  obtain ⟨a, b, c, d, e, f, g⟩ := t
  simp only [Status.flags]
  revert a b c d
  decide

/-- STATUS after a successful command that sets SEQ_VALID. -/
theorem Status.word_succeed_setSeqValid (t : Status) :
    (Status.succeed { t with seqValid := true }).word = (t.word &&& 14#32) ||| 1#32 := by
  rw [Status.word_succeed, Status.word_and_lowMask, t.flags_setSeqValid,
    t.word_and_of_low _ (by decide)]

/-- Settles O32: BUILD is a rebuild of SEQ that succeeds. -/
theorem buildReordersTheRecord : Obligations.BuildReordersTheRecord := by
  intro s
  exact ⟨s.rebuild.succeed, rfl, fun i hi k hk => buildSeq_getLsbD s.recByte i k hi hk,
    s.status.word_succeed_setSeqValid, rfl⟩

end Sys2Proof.Machine
end

section
/-! SLICE and the extractor: a slicer's output bit by bit, and the two endings of SLICE (41_slicers.md R102 to
R109). -/

namespace Sys2Proof.Slicer

section
variable {headerAdj start len : Nat} (seq : Seq)

theorem slicer_lt (headerAdj start len : Nat) : slicer headerAdj seq ⟨start, len⟩ < 2 ^ len :=
  readBits_lt _ _ _

/-- Out of the range `extract` has no value (R104). -/
theorem extract_of_outOfRange (h : start < headerAdj ∨ 152 + headerAdj < start + len) :
    extract headerAdj seq ⟨start, len⟩ = none := by
  have hr : ¬(headerAdj ≤ start ∧ start + len ≤ 152 + headerAdj) := by omega
  rw [extract_eq]
  exact if_neg hr

variable (h1 : headerAdj ≤ start) (h2 : start + len ≤ 152 + headerAdj)
include h1 h2

/-- In the range `extract` is the slicer's output (R104, R105). -/
theorem extract_of_inRange : extract headerAdj seq ⟨start, len⟩ = some (slicer headerAdj seq ⟨start, len⟩) :=
  if_pos ((inRange_iff _ _).2 ⟨h1, h2⟩)

/-- Bit i of a slicer's output is the sequence bit i places before the field's last (R102, R103). -/
theorem slicer_testBit (i : Nat) : (slicer headerAdj seq ⟨start, len⟩).testBit i
    = (decide (i < len) && seq.getMsbD (151 + headerAdj - start - i)) := by
  rw [slicer_eq_shift _ _ _ h1 h2, Nat.testBit_mod_two_pow, Nat.testBit_div_two_pow, BitVec.testBit_toNat]
  by_cases hi : i < len
  · have hp : 151 + headerAdj - start - i < 152 := by omega
    have hbit : 152 - 1 - (151 + headerAdj - start - i) = i + (start - headerAdj) := by omega
    rw [BitVec.getMsbD, decide_eq_true hp, hbit, Bool.true_and]
  · rw [decide_eq_false hi, Bool.false_and, Bool.false_and]

/-- A slicer whose sequence holds the bits of a value in the field's place outputs that value (R108). -/
theorem slicer_eq_of_testBit {v : Nat} (hv : v < 2 ^ len)
    (h : ∀ i < len, seq.getMsbD (151 + headerAdj - start - i) = v.testBit i) :
    slicer headerAdj seq ⟨start, len⟩ = v := by
  refine Nat.eq_of_testBit_eq fun i => ?_
  rw [slicer_testBit seq h1 h2]
  by_cases hi : i < len
  · rw [decide_eq_true hi, Bool.true_and, h i hi]
  · have hhigh : v < 2 ^ i := hv.trans_le (Nat.pow_le_pow_right (by decide) (Nat.not_lt.1 hi))
    rw [decide_eq_false hi, Bool.false_and, Nat.testBit_lt_two_pow hhigh]

end

end Sys2Proof.Slicer

namespace Sys2Proof.Machine

/-- Settles O36: bit i of the value is the sequence bit from which the slicer takes its bit i. -/
theorem extractReturnsTheFieldsValue : Obligations.ExtractReturnsTheFieldsValue := by
  intro seq start len v h1 h2 hv hbits
  rw [Slicer.extract_of_inRange seq h1 h2]
  refine congrArg some (Slicer.slicer_eq_of_testBit seq h1 h2 hv fun i hi => ?_)
  have hplace : len - 1 - (151 + 24 - start - i - (176 - start - len)) = i := by omega
  rw [hbits _ (by omega), hplace, decide_eq_true (by omega), decide_eq_true (by omega), Bool.true_and,
    Bool.true_and]

/-- Settles O37: two sequences with the same bits in the range give a slicer the same bits, and a slicer's output
has no more bits than its field. -/
theorem extractReadsOnlyItsRange : Obligations.ExtractReadsOnlyItsRange := by
  intro seq seq' start len
  refine ⟨fun h1 h2 hbits => ?_, fun h => Slicer.extract_of_outOfRange seq h⟩
  have hlt (q : Seq) : Slicer.slicer 24 q ⟨start, len⟩ < 2 ^ len := Slicer.slicer_lt q 24 start len
  have hsame : Slicer.slicer 24 seq ⟨start, len⟩ = Slicer.slicer 24 seq' ⟨start, len⟩ := by
    refine Slicer.slicer_eq_of_testBit seq h1 h2 (hlt seq') fun i hi => ?_
    rw [Slicer.slicer_testBit seq' h1 h2, decide_eq_true hi, Bool.true_and,
      hbits _ (by omega) (by omega)]
  rw [Slicer.extract_of_inRange seq h1 h2, Slicer.extract_of_inRange seq' h1 h2]
  refine ⟨congrArg some hsame, _, rfl, hlt seq, fun hl => ?_⟩
  rw [BitVec.toNat_ofNat]
  exact Nat.mod_eq_of_lt ((hlt seq).trans_le (Nat.pow_le_pow_right (by decide) hl))

/-- Settles O34: a SLICE in range finishes with the shifted sequence. -/
theorem sliceShiftsTheSequence : Obligations.SliceShiftsTheSequence := by
  intro s start len hv hl h1 h2
  exact ⟨_, execSlice_inRange s start len hv hl h1 h2, rfl, s.status.word_succeed, rfl⟩

/-- The error of a SLICE that fails: the first of R107's checks that does. -/
def sliceErrorKind (s : State) (len : Nat) : ErrorKind :=
  if s.status.seqValid = false then .noSequence else if 32 < len then .operandRange else .fieldRange

/-- SLICE with a failing check is aborted with the first one's error (41_slicers.md R107). -/
theorem execSlice_error {s : State} {start len : Nat}
    (h : s.status.seqValid = false ∨ 32 < len ∨ start < 24 ∨ 176 < start + len) :
    exec (.slice start len) s = .next (s.abort (.plain (sliceErrorKind s len))) := by
  rw [exec, execSlice, sliceErrorKind]
  by_cases hv : s.status.seqValid = false
  · rw [if_pos hv, if_pos hv]
  by_cases hl : 32 < len
  · rw [if_neg hv, if_neg hv, if_pos hl]
    exact if_pos hl
  · have hout : Slicer.extract Config.headerAdj s.seq ⟨start, len⟩ = none :=
      Slicer.extract_of_outOfRange s.seq ((h.resolve_left hv).resolve_left hl)
    rw [if_neg hv, if_neg hv, if_neg hl, hout]
    exact if_neg hl

/-- The error's code in its place in STATUS (10_state.md R24, 60_exceptions.md R170). -/
theorem sliceErrorKind_code (s : State) (len : Nat) :
    (sliceErrorKind s len).code.zeroExtend 32 <<< 4
      = if s.status.seqValid = false then 0x40#32 else if 32 < len then 0x50#32 else 0x10#32 := by
  rw [sliceErrorKind]
  split_ifs <;> rfl

/-- Settles O35: the abort raises the first failing check's error. -/
theorem sliceErrorsInOrder : Obligations.SliceErrorsInOrder := by
  intro s start len h
  refine ⟨_, execSlice_error h, rfl, ?_, rfl⟩
  rw [State.abort, State.raise_status, Status.word_fail, CmdError.word_plain, sliceErrorKind_code,
    ← BitVec.or_assoc]
  rfl

end Sys2Proof.Machine
end

section
/-! The calendar in day numbers: the dates in order, one number for each, and a day added is one more
(42_domain_luts.md R125 to R127). -/

namespace Sys2Proof.Calendar

open Sys2Proof.Machine

/-- The dates of R125's month table are the valid ones of R127. -/
theorem validDate_iff_isDate (t : Date) : validDate t = true ↔ IsDate t := by
  rw [validDate_iff]
  constructor
  · rintro ⟨hm, hm12, hd, hlen⟩
    exact ⟨hm, hd, _, monthTable_mdays t.year t.month hm hm12, hlen⟩
  · rintro ⟨hm, hd, len, hget, hlen⟩
    have hlt : t.month - 1 < 12 := (List.getElem?_eq_some_iff.1 hget).1
    have hm12 : t.month ≤ 12 := by omega
    rw [monthTable_mdays t.year t.month hm hm12] at hget
    cases hget
    exact ⟨hm, hm12, hd, hlen⟩

theorem leap_iff (y : Nat) : leap y = true ↔ y % 4 = 0 ∧ y % 100 ≠ 0 ∨ y % 400 = 0 := by
  simp [leap]

/-- The days before 1 January of year y, counted as `dayNumber` counts them. -/
def daysBeforeYear (y : Nat) : Nat :=
  365 * (y - 1) + (y - 1) / 4 - (y - 1) / 100 + (y - 1) / 400

theorem dayNumber_eq (t : Date) :
    dayNumber t = daysBeforeYear t.year + daysBeforeMonth t.year t.month + t.day := rfl

/-- The table's twelve months make a year of 366 or 365 days. -/
theorem daysBeforeMonth_thirteen (y : Nat) :
    daysBeforeMonth y 13 = if leap y = true then 366 else 365 := by
  simp only [leap_iff]
  rw [daysBeforeMonth, monthTable]
  split <;> rfl

theorem daysBeforeYear_succ {y : Nat} (hy : 1 ≤ y) :
    daysBeforeYear (y + 1) = daysBeforeYear y + daysBeforeMonth y 13 := by
  obtain ⟨k, rfl⟩ := Nat.exists_eq_add_of_le' hy
  have hle : k / 100 ≤ k / 4 := Nat.div_le_div_left (by decide) (by decide)
  simp only [daysBeforeMonth_thirteen, leap_iff, daysBeforeYear, Nat.add_sub_cancel, Nat.succ_div,
    ← Nat.dvd_iff_mod_eq_zero, ne_eq]
  split_ifs <;> omega

theorem daysBeforeMonth_mono (y : Nat) {m n : Nat} (h : m ≤ n) :
    daysBeforeMonth y m ≤ daysBeforeMonth y n :=
  (List.take_sublist_take_left (Nat.sub_le_sub_right h 1)).sum_le_sum fun _ _ => Nat.zero_le _

theorem daysBeforeYear_mono {x y : Nat} (h : x ≤ y) : daysBeforeYear x ≤ daysBeforeYear y := by
  refine monotone_nat_of_le_succ (f := daysBeforeYear) (fun n => ?_) h
  cases n with
  | zero => exact le_rfl
  | succ n =>
    rw [daysBeforeYear_succ (Nat.le_add_left 1 n)]
    exact Nat.le_add_right _ _

/-- The next day's number is one greater: inside a month, from a month to the next, and from a year to the
next. -/
theorem dayNumber_nextDay (t : Date) (h : validDate t = true) (hy : 1 ≤ t.year) :
    dayNumber (nextDay t) = dayNumber t + 1 := by
  obtain ⟨hm, hm12, -, hlen⟩ := (validDate_iff t).1 h
  have hnext := daysBeforeMonth_succ t.year t.month hm hm12
  rw [nextDay]
  split
  · rfl
  · have hlast : t.day = mdays t.year t.month := by omega
    rw [← hlast] at hnext
    split
    · simp only [dayNumber_eq, hnext]
      omega
    · have hdec : t.month = 12 := by omega
      have hjan : daysBeforeMonth (t.year + 1) 1 = 0 := rfl
      rw [hdec] at hnext
      simp only [dayNumber_eq, daysBeforeYear_succ hy, hjan, hdec, hnext]
      omega

theorem dayNumber_addDays (t : Date) (n : Nat) (h : validDate t = true) (hy : 1 ≤ t.year) :
    dayNumber (addDays t n) = dayNumber t + n := by
  induction n with
  | zero => rfl
  | succ n ih =>
    rw [addDays_succ, dayNumber_nextDay _ (addDays_valid t n h) (hy.trans (addDays_year t n).1), ih,
      Nat.add_assoc]

end Sys2Proof.Calendar

namespace Sys2Proof.Machine

/-- Settles O43: each day added counts one. -/
theorem addDaysCountsGregorianDays : Obligations.AddDaysCountsGregorianDays := by
  refine ⟨Calendar.validDate_iff_isDate, fun t off h hy => ?_⟩
  have hv := (Calendar.validDate_iff_isDate t).2 h
  exact ⟨(Calendar.validDate_iff_isDate _).1 (Calendar.addDays_valid t off hv),
    Calendar.dayNumber_addDays t off hv hy⟩

end Sys2Proof.Machine
end

section
/-! 365 days on: when a 29 February lies between a date and its anniversary (42_domain_luts.md R132). -/

namespace Sys2Proof.Calendar

open Sys2Proof.Machine

/-- Date a comes before date b: by year, then month, then day. -/
def Before (a b : Date) : Prop :=
  a.year < b.year ∨ a.year = b.year ∧ (a.month < b.month ∨ a.month = b.month ∧ a.day < b.day)

theorem eq_or_before_or_before (a b : Date) : a = b ∨ Before a b ∨ Before b a := by
  obtain ⟨y, m, d⟩ := a
  obtain ⟨y', m', d'⟩ := b
  simp only [Before, Date.mk.injEq]
  omega

/-- A date's number lies in its month: above the days before the month, not above those before the next. -/
theorem dayNumber_range (t : Date) (h : validDate t = true) :
    daysBeforeYear t.year + daysBeforeMonth t.year t.month < dayNumber t
      ∧ dayNumber t ≤ daysBeforeYear t.year + daysBeforeMonth t.year (t.month + 1) := by
  obtain ⟨hm, hm12, hd, hlen⟩ := (validDate_iff t).1 h
  rw [daysBeforeMonth_succ t.year t.month hm hm12, dayNumber_eq]
  omega

/-- The earlier of two valid dates has the smaller number. -/
theorem dayNumber_lt_of_before {a b : Date} (ha : validDate a = true) (hb : validDate b = true)
    (hy : 1 ≤ a.year) (h : Before a b) : dayNumber a < dayNumber b := by
  have ha12 := ((validDate_iff a).1 ha).2.1
  have hrb := (dayNumber_range b hb).1
  have hra := (dayNumber_range a ha).2
  obtain hlt | ⟨heq, hlt | ⟨hmeq, hlt⟩⟩ := h
  · have hyear := daysBeforeYear_mono (Nat.add_one_le_of_lt hlt)
    have hmonth : daysBeforeMonth a.year (a.month + 1) ≤ daysBeforeMonth a.year 13 :=
      daysBeforeMonth_mono a.year (Nat.add_le_add_right ha12 1)
    rw [daysBeforeYear_succ hy] at hyear
    omega
  · have hmonth := daysBeforeMonth_mono a.year (Nat.add_one_le_of_lt hlt)
    rw [← heq] at hrb
    omega
  · rw [dayNumber_eq, dayNumber_eq, heq, hmeq]
    omega

/-- Valid dates come in the order of their numbers. -/
theorem before_iff {a b : Date} (ha : validDate a = true) (hb : validDate b = true)
    (hya : 1 ≤ a.year) (hyb : 1 ≤ b.year) : Before a b ↔ dayNumber a < dayNumber b := by
  refine ⟨dayNumber_lt_of_before ha hb hya, fun hlt => ?_⟩
  obtain rfl | h | h := eq_or_before_or_before a b
  · exact absurd hlt (Nat.lt_irrefl _)
  · exact h
  · exact absurd hlt (Nat.lt_asymm (dayNumber_lt_of_before hb ha hyb h))

/-- The valid date whose number is n greater is the one n days on. -/
theorem addDays_eq_of_dayNumber {t u : Date} {n : Nat} (ht : validDate t = true)
    (hu : validDate u = true) (hyt : 1 ≤ t.year) (hyu : 1 ≤ u.year)
    (h : dayNumber u = dayNumber t + n) : addDays t n = u := by
  have hv := addDays_valid t n ht
  have hyv := hyt.trans (addDays_year t n).1
  have hnum := dayNumber_addDays t n ht hyt
  obtain heq | hb | hb := eq_or_before_or_before (addDays t n) u
  · exact heq
  · rw [before_iff hv hu hyv hyu] at hb
    omega
  · rw [before_iff hu hv hyu hyv] at hb
    omega

/-- The same day one year later. -/
def anniversary (t : Date) : Date := ⟨t.year + 1, t.month, t.day⟩

/-- The year of the first end of February after a date that is not a 29 February. -/
def nextFebruaryYear (t : Date) : Nat := if t.month ≤ 2 then t.year else t.year + 1

theorem leapDay_iff (t : Date) : leapDay t = true ↔ t.month = 2 ∧ t.day = 29 := by
  simp [leapDay]

theorem mdays_february (y : Nat) : mdays y 2 = if leap y = true then 29 else 28 := rfl

/-- Only February's length depends on the year. -/
theorem mdays_year_eq (x y : Nat) {m : Nat} (h : m ≠ 2) : mdays x m = mdays y m := by
  unfold mdays
  split
  · exact absurd rfl h
  all_goals rfl

theorem validDate_leapDay_iff (y : Nat) : validDate ⟨y, 2, 29⟩ = true ↔ leap y = true := by
  rw [validDate_iff, mdays_february]
  split <;> simp [*]

/-- A valid date in February that is not a 29 February is at most the 28th. -/
theorem day_le_of_not_leapDay {t : Date} (h : validDate t = true) (hl : leapDay t = false)
    (hm : t.month = 2) : t.day ≤ 28 := by
  obtain ⟨-, -, -, hlen⟩ := (validDate_iff t).1 h
  have hne : t.day ≠ 29 := fun hd => Bool.eq_false_iff.1 hl ((leapDay_iff t).2 ⟨hm, hd⟩)
  rw [hm, mdays_february] at hlen
  split at hlen <;> omega

theorem anniversary_valid {t : Date} (h : validDate t = true) (hl : leapDay t = false) :
    validDate (anniversary t) = true := by
  obtain ⟨hm, hm12, hd, hlen⟩ := (validDate_iff t).1 h
  refine (validDate_iff _).2 ⟨hm, hm12, hd, ?_⟩
  change t.day ≤ mdays (t.year + 1) t.month
  by_cases h2 : t.month = 2
  · have h28 := day_le_of_not_leapDay h hl h2
    have hr := (mdays_range (t.year + 1) t.month).1
    omega
  · rwa [mdays_year_eq (t.year + 1) t.year h2]

/-- Up to February a year's length does not show. -/
theorem daysBeforeMonth_early (x y : Nat) {m : Nat} (h : m ≤ 2) :
    daysBeforeMonth x m = daysBeforeMonth y m := by
  interval_cases m <;> rfl

/-- From March on the days that are left of a year are the same in every year. -/
theorem daysBeforeMonth_late (x y : Nat) {m : Nat} (h3 : 3 ≤ m) (h12 : m ≤ 12) :
    daysBeforeMonth x 13 + daysBeforeMonth y m = daysBeforeMonth y 13 + daysBeforeMonth x m := by
  interval_cases m <;> simp only [daysBeforeMonth, monthTable, List.take, List.sum_cons] <;> omega

/-- The anniversary is as many days on as the year of the next end of February has. -/
theorem dayNumber_anniversary {t : Date} (h : validDate t = true) (hy : 1 ≤ t.year) :
    dayNumber (anniversary t)
      = dayNumber t + if leap (nextFebruaryYear t) = true then 366 else 365 := by
  obtain ⟨-, hm12, -, -⟩ := (validDate_iff t).1 h
  rw [← daysBeforeMonth_thirteen, dayNumber_eq, dayNumber_eq]
  simp only [anniversary, daysBeforeYear_succ hy, nextFebruaryYear]
  split
  next hm =>
    rw [daysBeforeMonth_early (t.year + 1) t.year hm]
    omega
  next hm =>
    have hlate := daysBeforeMonth_late t.year (t.year + 1) (Nat.lt_of_not_le hm) hm12
    omega

/-- The 29 February of a leap `nextFebruaryYear` is one of the 365 days after the date. -/
theorem exists_leapDay_of_leap {t : Date} (h : validDate t = true) (hy : 1 ≤ t.year)
    (hl : leapDay t = false) (hleap : leap (nextFebruaryYear t) = true) :
    ∃ n, 1 ≤ n ∧ n ≤ 365 ∧ leapDay (addDays t n) = true := by
  have hf := (validDate_leapDay_iff _).2 hleap
  have hu := anniversary_valid h hl
  have hnum := dayNumber_anniversary h hy
  rw [if_pos hleap] at hnum
  have hyf : 1 ≤ nextFebruaryYear t := by
    unfold nextFebruaryYear
    split <;> omega
  have h28 := day_le_of_not_leapDay h hl
  have hlo : Before t ⟨nextFebruaryYear t, 2, 29⟩ := by
    simp only [Before, nextFebruaryYear]
    split <;> omega
  have hhi : Before ⟨nextFebruaryYear t, 2, 29⟩ (anniversary t) := by
    simp only [Before, nextFebruaryYear, anniversary]
    split <;> omega
  have hnlo := dayNumber_lt_of_before h hf hy hlo
  have hnhi := dayNumber_lt_of_before hf hu hyf hhi
  refine ⟨dayNumber ⟨nextFebruaryYear t, 2, 29⟩ - dayNumber t, by omega, by omega, ?_⟩
  rw [addDays_eq_of_dayNumber h hf hy hyf (by omega)]
  rfl

/-- A 29 February among the 365 days after the date is that of `nextFebruaryYear`. -/
theorem leap_of_exists_leapDay {t : Date} (h : validDate t = true) (hy : 1 ≤ t.year)
    (hl : leapDay t = false) {n : Nat} (h1 : 1 ≤ n) (hn : n ≤ 365)
    (hd : leapDay (addDays t n) = true) : leap (nextFebruaryYear t) = true := by
  by_contra hleap
  have hu := anniversary_valid h hl
  have hyu : 1 ≤ (anniversary t).year := Nat.le_add_left 1 _
  have hnum := dayNumber_anniversary h hy
  have hv := addDays_valid t n h
  have hvnum := dayNumber_addDays t n h hy
  have hyv := hy.trans (addDays_year t n).1
  rw [if_neg hleap] at hnum
  generalize addDays t n = v at *
  obtain ⟨hvm, hvd⟩ := (leapDay_iff v).1 hd
  have hlo : Before t v := (before_iff h hv hy hyv).2 (by omega)
  have hhi : ¬ Before (anniversary t) v := by
    rw [before_iff hu hv hyu hyv]
    omega
  have hvleap : leap v.year = true :=
    (validDate_leapDay_iff _).1 (by rw [← hvm, ← hvd]; exact hv)
  have hyear : v.year = nextFebruaryYear t := by
    have h28 := day_le_of_not_leapDay h hl
    simp only [Before, anniversary] at hlo hhi
    unfold nextFebruaryYear
    split <;> omega
  exact hleap (hyear ▸ hvleap)

end Sys2Proof.Calendar

namespace Sys2Proof.Machine

open Calendar

/-- Settles O44: the anniversary is 366 days on if the next end of February is a leap year's, else 365. -/
theorem yearLaterUnlessALeapDayBetween : Obligations.YearLaterUnlessALeapDayBetween := by
  intro t h hy hl
  have hu := anniversary_valid h hl
  have hyu : 1 ≤ (anniversary t).year := Nat.le_add_left 1 _
  have hnum := dayNumber_anniversary h hy
  constructor
  · intro hnone
    have hleap : leap (nextFebruaryYear t) ≠ true := fun hleap => by
      obtain ⟨n, h1, hn, hd⟩ := exists_leapDay_of_leap h hy hl hleap
      exact Bool.eq_false_iff.1 (hnone n h1 hn) hd
    rw [if_neg hleap] at hnum
    exact addDays_eq_of_dayNumber h hu hy hyu hnum
  · rintro ⟨n, h1, hn, hd⟩
    rw [if_pos (leap_of_exists_leapDay h hy hl h1 hn hd)] at hnum
    exact (addDays_succ t 365).symm.trans (addDays_eq_of_dayNumber h hu hy hyu hnum)

end Sys2Proof.Machine
end

section
/-! The look-up commands XLOC, XLTOT and XDATE in numbers (42_domain_luts.md R129 to R131). -/

namespace Sys2Proof.Machine

/-- Settles O38: the prefix table's character, widened to a word. -/
theorem xlocLooksUpThePrefix : Obligations.XlocLooksUpThePrefix := by
  intro s idx h
  refine ⟨s.finish ((BitVec.ofNat 8 (locationAscii idx)).zeroExtend 32), ?_, ?_,
    s.status.word_succeed, rfl⟩
  · rw [exec, execXloc, Alphabet.locChar_of_lt idx h]
  · exact BitVec.setWidth_ofNat_of_le_of_lt (w := 8) (v := 32) (by decide) (locationAscii_lt h)

/-- Settles O39: no character, so the command is aborted with an error that names no field. -/
theorem xlocRejectsLargeIndexes : Obligations.XlocRejectsLargeIndexes := by
  intro s idx h
  refine ⟨s.abort (.plain .alphabetRange), ?_, rfl, s.status.word_fail _, rfl⟩
  rw [exec, execXloc, Alphabet.locChar_of_ge idx h]

/-- Settles O40: both halves have a letter, and the two are packed side by side. -/
theorem xltotLooksUpTheLetters : Obligations.XltotLooksUpTheLetters := by
  intro s raw hi lo
  refine ⟨s.finish (packLetters (BitVec.ofNat 8 (0x41 + raw / 32)) (BitVec.ofNat 8 (0x41 + raw % 32))), ?_,
    packLetters_eq hi lo, s.status.word_succeed, rfl⟩
  rw [exec, execXltot, Alphabet.ltotChars_of_le raw hi lo]

/-- Settles O42: the packed date's parts, its month and day in range. -/
theorem xdateLooksUpTheDate : Obligations.XdateLooksUpTheDate := by
  intro s off h
  obtain ⟨hn, hm1, hm2, hd1, hd2⟩ := packDate_addDays s.params.epoch h
  refine ⟨_, rfl, ?_, ?_, ?_, ?_, ?_, s.status.word_succeed, rfl⟩
  all_goals
    rw [State.finish, State.succeed_result, State.setResult_result, hn]
    omega

end Sys2Proof.Machine
end

section
/-! The errors of DECODE and TTSEL, and the order in which DECODE finds them (43_decode_resolve.md R140 to R143,
R148). -/

namespace Sys2Proof

/-- The rows of a layout in order: row k stands at index k (41_slicers.md R101). -/
theorem PerField.getElem_toList {α : Type} (v : PerField α) {i : Nat} (h : i < v.toList.length) :
    v.toList[i] = v.get ⟨i, h⟩ := by
  have hi : i < 11 := h
  interval_cases i <;> rfl

theorem PerField.forall_mem_toList {α : Type} {v : PerField α} {P : α → Prop} :
    (∀ a ∈ v.toList, P a) ↔ ∀ k, P (v.get k) := by
  simp [PerField.toList, Fin.forall_fin_succ, PerField.get]

/-- The search for a row out of range is the library's search for an index, counted from `k`. -/
theorem Slicer.firstOutOfRange_eq_findIdx? (headerAdj k : Nat) (fs : List FieldSpec) :
    firstOutOfRange headerAdj k fs = (fs.findIdx? fun f => !inRange headerAdj f).map (· + k) := by
  induction fs generalizing k with
  | nil => rfl
  | cons f rest ih =>
    rw [firstOutOfRange, List.findIdx?_cons, ih]
    cases inRange headerAdj f
    · simp
    · simp [Function.comp_def, Nat.add_comm, Nat.add_left_comm]

namespace Machine

/-- DECODE reports the lowest row that fails the range check (R140). -/
theorem decodeSeq_of_outOfRange {l : Layout} {k : Fin 11}
    (hk : ¬ Slicer.inRange l.headerAdj (l.table.get k) = true)
    (hlow : ∀ j < k, Slicer.inRange l.headerAdj (l.table.get j) = true) (p : Params) (seq : Seq) :
    decodeSeq l p seq = .error ⟨.fieldRange, BitVec.ofNat 8 k.val, 0⟩ := by
  have hfirst : (l.table.toList.findIdx? fun f => !Slicer.inRange l.headerAdj f) = some k.val := by
    have hlen : k.val < l.table.toList.length := k.isLt
    rw [List.findIdx?_eq_some_iff_getElem]
    refine ⟨hlen, ?_, fun j hj => ?_⟩
    · simpa [PerField.getElem_toList] using hk
    · simpa [PerField.getElem_toList] using hlow ⟨j, hj.trans hlen⟩ hj
  rw [decodeSeq, Slicer.firstOutOfRange_eq_findIdx?, hfirst]
  rfl

/-- With every row in range DECODE resolves the slicers' outputs (R140, R141). -/
theorem decodeSeq_of_inRange {l : Layout}
    (h : ∀ k, Slicer.inRange l.headerAdj (l.table.get k) = true) (p : Params) (seq : Seq) :
    decodeSeq l p seq = resolveFields p (l.table.map (Slicer.slicer l.headerAdj seq)) := by
  rw [decodeSeq, (Slicer.firstOutOfRange_eq_none _ _ _).2 (PerField.forall_mem_toList.2 h)]

theorem resolveFields_of_origPfx (p : Params) {v : PerField Nat} (h : 32 ≤ v.get 0) :
    resolveFields p v = .error ⟨.alphabetRange, 0, 0⟩ := by
  rw [resolveFields, Alphabet.locChar_of_ge v.origPfx h]

theorem resolveFields_of_destPfx (p : Params) {v : PerField Nat} (h0 : v.get 0 < 32)
    (h2 : 32 ≤ v.get 2) : resolveFields p v = .error ⟨.alphabetRange, 2, 0⟩ := by
  rw [resolveFields, Alphabet.locChar_of_lt v.origPfx h0, Alphabet.locChar_of_ge v.destPfx h2]

theorem resolveFields_of_ltot (p : Params) {v : PerField Nat} (h0 : v.get 0 < 32) (h2 : v.get 2 < 32)
    (h5 : 25 < v.get 5 / 32 ∨ 25 < v.get 5 % 32) :
    resolveFields p v = .error ⟨.alphabetRange, 5, Alphabet.ltotSub (v.get 5)⟩ := by
  rw [resolveFields, Alphabet.locChar_of_lt v.origPfx h0, Alphabet.locChar_of_lt v.destPfx h2,
    Alphabet.ltotChars_of_gt v.ltot h5]
  rfl

/-- Settles O49: the lowest row out of range is found first; past it the slicers' outputs are the shifted bits,
and `resolveFields` looks at rows 0, 2 and 5 in turn. -/
theorem decodeChecksTheLayoutInOrder : Obligations.DecodeChecksTheLayoutInOrder := by
  intro l p seq fits value
  have hfits (k : Fin 11) : Slicer.inRange l.headerAdj (l.table.get k) = true ↔ fits k :=
    Slicer.inRange_iff _ _
  have hresolve (h : ∀ k, fits k) :
      decodeSeq l p seq = resolveFields p (l.table.map (Slicer.slicer l.headerAdj seq)) :=
    decodeSeq_of_inRange (fun k => (hfits k).2 (h k)) p seq
  have hvalue (h : ∀ k, fits k) (k : Fin 11) :
      (l.table.map (Slicer.slicer l.headerAdj seq)).get k = value k := by
    rw [PerField.get_map, Slicer.slicer_eq_shift _ _ _ (h k).1 (h k).2]
  refine ⟨fun k hk hlow => ?_, fun h h0 => ?_, fun h h0 h2 => ?_, fun h h0 h2 h5 => ?_⟩
  · exact decodeSeq_of_outOfRange (fun hr => hk ((hfits k).1 hr))
      (fun j hj => (hfits j).2 (hlow j hj)) p seq
  · rw [hresolve h, resolveFields_of_origPfx p (by rwa [hvalue h])]
  · rw [hresolve h, resolveFields_of_destPfx p (by rwa [hvalue h]) (by rwa [hvalue h])]
  · rw [hresolve h, resolveFields_of_ltot p (by rwa [hvalue h]) (by rwa [hvalue h])
      (by rwa [hvalue h]), hvalue h]
    rfl

/-- STATUS after a DECODE that fails: SEQ_VALID and STICKY_ERR, ALPHABET_RANGE, field 5 and the halves (R143,
R174). -/
theorem status_of_notDecoded (t : Status) (raw : Nat) :
    (Status.fail { t with seqValid := true, decValid := false, warn := false }
        ⟨.alphabetRange, 5, Alphabet.ltotSub raw⟩).word
      = 0x00000529 ||| (if 25 < raw / 32 then 0x00010000 else 0)
          ||| (if 25 < raw % 32 then 0x00020000 else 0) := by
  simp only [Alphabet.ltotSub, Status.fail, Status.word]
  split_ifs <;> rfl

/-- After a failing DECODE every result register reads 0 (R143). -/
theorem State.readReg_clearDecode_raise (s : State) (e : CmdError) {off : BitVec 8}
    (lo : 0x40 ≤ off.toNat) (hi : off.toNat ≤ 0x94) : (s.clearDecode.raise e).readReg off = 0 := by
  rw [State.readReg]
  -- A branch reads a register that is 0, or has its offset outside 0x40 to 0x94.
  split <;> (try rfl) <;> omega

/-- Settles O48: the failing outcome clears the result registers before it raises its error, and the other
outcome has no error. -/
theorem decodeFailureZeroesTheResults : Obligations.DecodeFailureZeroesTheResults := by
  refine fun s => ⟨fun h => ?_, fun t ht herr => ?_⟩
  · exact ⟨_, execDecode_failure s h, rfl, fun off lo hi => State.readReg_clearDecode_raise _ _ lo hi,
      rfl, status_of_notDecoded s.status _, rfl⟩
  · obtain rfl | rfl := execDecode_cases ht
    · exact absurd rfl herr
    · exact ⟨fun off lo hi => State.readReg_clearDecode_raise _ _ lo hi, rfl, rfl, rfl⟩

/-- Settles O51: the index check comes first, and its error names no field. -/
theorem ttselRejectsLargeIndexes : Obligations.TtselRejectsLargeIndexes := by
  intro s k h
  refine ⟨s.raise (.plain .operandRange), ?_, s.status.word_fail _, rfl⟩
  rw [exec, execTtsel, if_pos h]

end Machine

end Sys2Proof
end

section
/-! The reference index as a whole: which files build one, and what it holds (43_decode_resolve.md R149, R150). -/

namespace Sys2Proof.RefIndex

/-- An index that is built holds what the file's lines leave, and the document's entries, the last first. -/
theorem ofReference_eq_some {lines : List (List Byte)} {entries : List (TicketCode × String)}
    {r : RefIndex} (h : ofReference lines entries = some r) :
    collectLines [] lines = some r.ltotToTicketTypes ∧ r.ticketTypeToName = entries.reverse := by
  unfold ofReference at h
  split at h
  · cases h
  · rename_i types hc
    split at h <;> cases h
    exact ⟨hc, rfl⟩

/-- A file whose lines leave lists within the bound of R150 builds an index. -/
theorem exists_ofReference {lines : List (List Byte)} {types : List (LtotKey × List TicketCode)}
    (hc : collectLines [] lines = some types) (hb : ∀ e ∈ types, e.2.length ≤ 65535)
    (entries : List (TicketCode × String)) : ∃ r, ofReference lines entries = some r := by
  have hall : (types.all fun e => decide (e.2.length ≤ 65535)) = true := by simpa using hb
  refine ⟨⟨types, entries.reverse, hall⟩, ?_⟩
  simp only [ofReference, hc, dif_pos hall]

end Sys2Proof.RefIndex

namespace Sys2Proof.Machine

open RefIndex

/-- Settles O55: each line that is no comment adds its code at its key, a short line alone stops the loader, and
the names are searched from the document's end. -/
theorem referenceIndexKeepsFileOrder : Obligations.ReferenceIndexKeepsFileOrder := by
  intro lines entries records
  refine ⟨fun r hr => ?_, fun hlen hcount => ?_, fun hshort => ?_⟩
  · obtain ⟨htypes, hnames⟩ := ofReference_eq_some hr
    refine ⟨fun key => codesAt_collectLines key lines [] _ htypes, fun c => ?_, fun c n => ?_⟩
    · rw [known_iff, hnames]
      simp only [List.mem_reverse]
    · rw [hnames]
      exact lookup_reverse_eq_some_iff entries c n
  · cases hc : collectLines [] lines with
    | none =>
      obtain ⟨x, hx, hlt⟩ := (collectLines_eq_none_iff lines []).1 hc
      exact absurd (hlen x hx) (by omega)
    | some types =>
      have hle := collectLines_length_le lines [] types 0 hc (by simp)
      exact exists_ofReference hc (fun e he => (hle e he).trans ((Nat.zero_add _).trans_le hcount)) entries
  · rw [ofReference, (collectLines_eq_none_iff lines []).2 hshort]

end Sys2Proof.Machine
end

section
/-! The control commands: NOP, CLRERR and SRESET (44_control.md R160, R161, R162; 70_reset_and_hazards.md R190). -/

namespace Sys2Proof.Machine

/-- After reset ID alone does not read 0 (70_reset_and_hazards.md R190). -/
theorem State.readReg_reset (off : BitVec 8) :
    State.reset.readReg off = if off = 0x00 then 0x3144534D else 0 := by
  by_cases h : off = 0x00
  · subst h
    rfl
  · have hn : off.toNat ≠ 0 := fun hz => h (BitVec.eq_of_toNat_eq hz)
    rw [if_neg h]
    unfold State.readReg
    split
    case h_1 => contradiction
    all_goals rfl

/-- What a reset keeps no register shows (70_reset_and_hazards.md R190). -/
theorem State.readReg_applyReset (s : State) (off : BitVec 8) :
    s.applyReset.readReg off = State.reset.readReg off := rfl

/-- Settles O15: SRESET is the reset of the block, which the registers of the reset state describe. -/
theorem sresetResetsEveryRegister : Obligations.SresetResetsEveryRegister := by
  intro s
  refine ⟨s.applyReset, rfl, fun off => ?_, s.applyReset_seq, s.applyReset_ttList, s.applyReset_params,
    s.applyReset_pending, s.applyReset_readLog⟩
  rw [s.readReg_applyReset, State.readReg_reset]

/-- Settles O30: NOP succeeds and does nothing else. -/
theorem nopClearsTheErrorFields : Obligations.NopClearsTheErrorFields :=
  fun s => ⟨s.succeed, rfl, s.status.word_succeed, rfl⟩

/-- Clearing STICKY_ERR clears STATUS[3] and keeps the other flags (10_state.md R24). -/
theorem Status.flags_clearStickyErr (t : Status) :
    Status.flags { t with stickyErr := false } = t.flags &&& 7#32 := by
  obtain ⟨a, b, c, d, e, f, g⟩ := t
  simp only [Status.flags]
  revert a b c d
  decide

/-- STATUS after a successful command that clears STICKY_ERR. -/
theorem Status.word_succeed_clearStickyErr (t : Status) :
    (Status.succeed { t with stickyErr := false }).word = t.word &&& 7#32 := by
  rw [Status.word_succeed, Status.word_and_lowMask, t.flags_clearStickyErr,
    t.word_and_of_low _ (by decide)]

/-- Settles O31: CLRERR clears STICKY_ERR and succeeds. -/
theorem clrerrClearsTheStickyError : Obligations.ClrerrClearsTheStickyError :=
  fun s => ⟨s.clearSticky.succeed, rfl, s.status.word_succeed_clearStickyErr, rfl⟩

end Sys2Proof.Machine
end


section
/-! The reset state, and a SLICE right after a REC write (70_reset_and_hazards.md R190, R192, R200, R201). -/

namespace Sys2Proof.Machine

/-- Settles O16: SRESET and the reset input both apply the reset, after which every register is as in the reset
state. -/
theorem resetStateHoldsAfterEveryReset : Obligations.ResetStateHoldsAfterEveryReset := by
  have hreads (s : State) (off : BitVec 8) :
      s.applyReset.readReg off = if off = 0x00 then 0x3144534D else 0 := by
    rw [s.readReg_applyReset, State.readReg_reset]
  refine ⟨⟨State.readReg_reset, rfl, rfl⟩, fun s rest hp => ?_, fun s => ?_⟩
  · exact ⟨State.applyReset { s with pending := rest }, step_of_pending hp, ⟨hreads _, rfl, rfl⟩, rfl⟩
  · exact ⟨s.applyReset, rfl, ⟨hreads s, rfl, rfl⟩, rfl⟩

/-- Settles O17: the reset state is its own reset. -/
theorem resetIsConsistent : Obligations.ResetIsConsistent := State.Consistent.applyReset State.reset

/-- SLICE in two states with one SEQ and STATUS leaves the same RESULT and STATUS (41_slicers.md R107). -/
theorem execSlice_result_status {s u : State} (start len : Nat) (hq : u.seq = s.seq)
    (hs : u.status = s.status) : ∃ t t', exec (.slice start len) u = .next t
      ∧ exec (.slice start len) s = .next t' ∧ t.result = t'.result ∧ t.status = t'.status := by
  simp only [exec, execSlice, hq, hs]
  split_ifs
  · exact ⟨_, _, rfl, rfl, rfl, congrArg (Status.fail · _) hs⟩
  · exact ⟨_, _, rfl, rfl, rfl, congrArg (Status.fail · _) hs⟩
  · split
    · exact ⟨_, _, rfl, rfl, rfl, congrArg (Status.fail · _) hs⟩
    · exact ⟨_, _, rfl, rfl, rfl, congrArg Status.succeed hs⟩

/-- The DECODE result registers show neither RESULT nor STATUS (10_state.md R22). -/
theorem State.readReg_with_result_status (s : State) (v : Word) (st : Status) {a : BitVec 8}
    (lo : 0x40 ≤ a.toNat) (hi : a.toNat ≤ 0x94) :
    State.readReg { s with result := v, status := st } a = s.readReg a := by
  unfold State.readReg
  -- A branch reads another register, or has its offset outside 0x40 to 0x94.
  split <;> try rfl
  all_goals omega

/-- SLICE keeps SEQ and the DECODE result registers (41_slicers.md R107). -/
theorem execSlice_keeps {s t : State} {start len : Nat} (h : exec (.slice start len) s = .next t) :
    t.seq = s.seq ∧ ∀ a : BitVec 8, 0x40 ≤ a.toNat → a.toNat ≤ 0x94 → t.readReg a = s.readReg a := by
  obtain ⟨k, rfl⟩ | ⟨v, rfl⟩ := execSlice_cases h
  · exact ⟨rfl, fun a lo hi => s.readReg_with_result_status _ _ lo hi⟩
  · exact ⟨rfl, fun a lo hi => s.readReg_with_result_status _ _ lo hi⟩

/-- The REC registers lie below the DECODE result registers (10_state.md R22). -/
theorem rec_offset_le {off : BitVec 8}
    (h : off ∈ ([0x10, 0x14, 0x18, 0x1C, 0x20] : List (BitVec 8))) : off.toNat ≤ 0x20 := by
  revert off
  decide

/-- Settles O53: the REC write keeps SEQ and STATUS, on which alone SLICE depends, and neither step writes a
DECODE result register. -/
theorem sliceSeesTheOldRecord : Obligations.SliceSeesTheOldRecord := by
  intro s off v w start len hp hoff hd
  obtain ⟨u, hwrite, -, hread, hframe⟩ := recordWritesReadBack s off v _ hp hoff
  have hseq : u.seq = s.seq := by rw [hframe]
  have hstatus : u.status = s.status := by rw [hframe]
  obtain ⟨t, t', hnew, hold, hresult, hst⟩ :=
    execSlice_result_status (u := { u with pending := [] }) start len hseq hstatus
  have hslice := (stepRunsTheDecodedCommand u w _ [] (step_pending hp hwrite) hd).trans hnew
  obtain ⟨hkeep, hregs⟩ := execSlice_keeps hnew
  refine ⟨t, t', ?_, hold, hresult, hst, hkeep.trans hseq, fun a lo hi => ?_⟩
  · rw [run_succ_of_step 1 hwrite, run_succ_of_step 0 hslice]
    rfl
  · have hne : a ≠ off := by
      have hle := rec_offset_le hoff
      rintro rfl
      omega
    exact (hregs a lo hi).trans (hread a hne)

end Sys2Proof.Machine
end

section
/-! The block starts nothing of its own: between host accesses it waits (10_state.md R20, DEDUCED,
assumption 5). -/

namespace Sys2Proof.Machine

/-- Settles O7: a step serves the oldest host event, and where none is issued it answers the same state. -/
theorem blockWaitsForTheHost : Obligations.BlockWaitsForTheHost :=
  fun _ => step_of_no_event

end Sys2Proof.Machine
end
